-- ==== Sys2Proof/Word.lean ====
section
/-! DEFINITION. The plain data of the block: bytes, nibbles, the two fixed byte groups a frame carries, and the
8-byte frame (spec 00_scope.md R12, 30_encoding.md R70). -/

namespace Sys2Proof

/-- A byte is an unsigned integer 0..255 (R12). -/
abbrev Byte := BitVec 8

/-- Half a byte: a frame type, a sequence number, a span length (R13). -/
abbrev Nibble := BitVec 4

/-- The seven bytes `f[1]` .. `f[7]` of a frame (R72, R74, R75). -/
structure Seven where
  b1 : Byte
  b2 : Byte
  b3 : Byte
  b4 : Byte
  b5 : Byte
  b6 : Byte
  b7 : Byte
  deriving DecidableEq, Repr

/-- The six payload bytes `f[2]` .. `f[7]` of a first frame (R73). -/
structure Six where
  b2 : Byte
  b3 : Byte
  b4 : Byte
  b5 : Byte
  b6 : Byte
  b7 : Byte
  deriving DecidableEq, Repr

/-- A frame: exactly 8 bytes, byte 0 and the seven after it (R12, R70). -/
structure Frame where
  b0   : Byte
  rest : Seven
  deriving DecidableEq, Repr

/-- The seven bytes in order, lowest index first. -/
def Seven.toList (d : Seven) : List Byte := [d.b1, d.b2, d.b3, d.b4, d.b5, d.b6, d.b7]

/-- The six bytes in order, lowest index first. -/
def Six.toList (d : Six) : List Byte := [d.b2, d.b3, d.b4, d.b5, d.b6, d.b7]

/-- The eight bytes of a frame in order, `f[0]` first (R53). -/
def Frame.bytes (f : Frame) : List Byte := f.b0 :: f.rest.toList

end Sys2Proof
end

