-- ==== Sys2Proof/Config.lean ====
section
/-! DEFINITION. The constants the spec fixes (00_scope.md R10, R11; 10_state.md R32): "a model hard-codes them".
The one parameter left open, the firmware image `FW`, is no constant here: it is data in State, so that every claim over
all states is a claim over every image (log 3). No value of this block is free, so there is no opaque constant. -/

namespace Sys2Proof.Config

/-- `SF_MAX`: the largest payload sent as a single frame (R10). -/
abbrev sfMax : Nat := 7
/-- `FF_DATA`: payload bytes carried by a first frame (R10). -/
abbrev ffData : Nat := 6
/-- `CF_DATA`: payload bytes carried by a consecutive frame (R10). -/
abbrev cfData : Nat := 7
/-- `MSG_MAX`: the largest message `Write` accepts and the largest length a first frame declares (R10). -/
abbrev msgMax : Nat := 4095
/-- `SEQ_FIRST`: sequence number of the first consecutive frame (R10). -/
abbrev seqFirst : Nibble := 1
/-- `FC_CTS`: the only flow-control byte the block accepts or sends (R10). -/
abbrev fcCts : Byte := 0x30
/-- `MEM_BASE`: the logical address of firmware byte 0 (R10, R32). -/
abbrev memBase : Nat := 0x1000
/-- `RMBA_MAX_SIZE`: the largest length a read-memory request may ask (R10). -/
abbrev rmbaMaxSize : Nat := 0xFFE
/-- `SEED`: the five fixed bytes of the positive response to request-seed (R10, R32). -/
abbrev seed : List Byte := [0x01, 0x53, 0x5F, 0xA3, 0x85]
/-- `KEY_LAST`: the required value of the last key byte (R10, R32). -/
abbrev keyLast : Byte := 0x85
/-- The service identifiers of `SID_SET` (R10). -/
abbrev sidDsc : Byte := 0x10
/-- Read memory by address (R10). -/
abbrev sidRmba : Byte := 0x23
/-- Security access (R10). -/
abbrev sidSa : Byte := 0x27
/-- `SID_REQ_MAX`: a first byte above this is not a request (R10). -/
abbrev sidReqMax : Byte := 0x3F
/-- `POS_OFFSET`: added to the service identifier in a positive response (R10). -/
abbrev posOffset : Byte := 0x40
/-- `NEG_SID`: first byte of a negative response (R10). -/
abbrev negSid : Byte := 0x7F
/-- `RX_CAP`: the capacity of `rx_buf` (R11, R28). -/
abbrev rxCap : Nat := 4101

end Sys2Proof.Config
end

