-- ==== Sys2Proof/Syntax.lean ====
section
/-! DEFINITION. The instructions: one constructor per row of spec/opcode_table.json (30_encoding.md R88), in the
table's order. Two levels share the type (00_scope.md R9): received and sent frames, delivered requests and responses. -/

namespace Sys2Proof

/-- The nine symbolic fault names of the NRC table (10_state.md R33), in the order of their codes. -/
inductive Nrc where
  | serviceNotSupported
  | subFunctionNotSupported
  | incorrectMessageLengthOrInvalidFormat
  | requestSequenceError
  | requestOutOfRange
  | securityAccessDenied
  | invalidKey
  | subFunctionNotSupportedInActiveSession
  | serviceNotSupportedInActiveSession
  deriving DecidableEq, Repr

/-- The instructions of the block. Operands keep every bit of the encoding, examined or not. -/
inductive Instr where
  /-- `SF`, taken in RX_IDLE: length nibble and the seven bytes after byte 0 (R72, R122). -/
  | sf (l : Nibble) (data : Seven)
  /-- `FF`, taken in RX_IDLE: declared length and six data bytes (R73, R123). -/
  | ff (len : BitVec 12) (data : Six)
  /-- `CF.lead`: a consecutive frame taken in RX_IDLE (R128). -/
  | cfLead (sn : Nibble) (data : Seven)
  /-- `FC.lead`: a type-3 frame taken in RX_IDLE, `low` its low nibble (R128). -/
  | fcLead (low : Nibble) (rest : Seven)
  /-- `RSV4-7.lead`: type nibble 4..7, `low` the low six bits of byte 0 (R76, R128). -/
  | rsv47Lead (low : BitVec 6) (rest : Seven)
  /-- `RSV8-F.lead`: type nibble 8..15, `low` the low seven bits of byte 0 (R76, R128). -/
  | rsv8FLead (low : BitVec 7) (rest : Seven)
  /-- `CF`, the expected consecutive frame taken in RX_CF (R74, R125). -/
  | cf (sn : Nibble) (data : Seven)
  /-- `CF.mismatch`: any other frame taken in RX_CF (R126). -/
  | cfMismatch (f : Frame)
  /-- `FC`, byte 0 is 0x30, taken in TX_WAIT_FC (R75, R103). -/
  | fc (rest : Seven)
  /-- `FC.mismatch`: any other frame taken in TX_WAIT_FC (R105). -/
  | fcMismatch (f : Frame)
  /-- `SF.tx`: send `p` as one single frame (R101). -/
  | sfTx (p : List Byte)
  /-- `FF.tx`: send the first frame of `p` and hold `p` for the burst (R102). -/
  | ffTx (p : List Byte)
  /-- `CF.tx`: send one consecutive frame (R104). -/
  | cfTx (sn : Nibble) (data : Seven)
  /-- `FC.tx`: send the constant flow-control frame (R124). -/
  | fcTx
  /-- `EMPTY`: the empty message (R151). -/
  | empty
  /-- `IGNORED.80-FF`: first byte 0x80..0xFF, `sid` its low seven bits (R152). -/
  | ignored80FF (sid : BitVec 7) (rest : List Byte)
  /-- `IGNORED.40-7F`: first byte 0x40..0x7F, `sid` its low six bits (R152). -/
  | ignored407F (sid : BitVec 6) (rest : List Byte)
  /-- `SHORT.DSC`: the one-byte message 10 (R154). -/
  | shortDsc
  /-- `SHORT.RMBA`: the one-byte message 23 (R154). -/
  | shortRmba
  /-- `SHORT.SA`: the one-byte message 27 (R154). -/
  | shortSa
  /-- `DSC.01`: select session 1, `rest` the bytes after the sub-function (R180). -/
  | dsc01 (rest : List Byte)
  /-- `DSC.02`: select session 2 (R180). -/
  | dsc02 (rest : List Byte)
  /-- `DSC.other`: session control with another sub-function (R181). -/
  | dscOther (subFn : Byte) (rest : List Byte)
  /-- `SA.SEED`: requestSeed (R191). -/
  | saSeed (rest : List Byte)
  /-- `SA.KEY`: sendKey, `key` all bytes after the sub-function (R192). -/
  | saKey (key : List Byte)
  /-- `SA.other`: security access with another sub-function (R193). -/
  | saOther (subFn : Byte) (rest : List Byte)
  /-- `RMBA`: the two nibbles of the format byte, and all bytes after it (R82, R210). -/
  | rmba (addrSize : Nibble) (sizeSize : Nibble) (spans : List Byte)
  /-- `UNSUPPORTED`: a request to no service of the block (R153). -/
  | unsupported (sid : Byte) (rest : List Byte)
  /-- `POS.DSC`: positive response `[0x50, sf]` (R83, R157). -/
  | posDsc (subFn : Byte)
  /-- `POS.RMBA`: positive response `[0x63] ++ data` (R83, R157). -/
  | posRmba (data : List Byte)
  /-- `POS.SA.SEED`: positive response `[0x67] ++ SEED` (R83, R157). -/
  | posSaSeed
  /-- `POS.SA.KEY`: positive response `[0x67, 0x02]` (R83, R157). -/
  | posSaKey
  /-- `NEG`: negative response `[0x7F, sid, nrc]` (R83, R158). -/
  | neg (sid : Byte) (nrc : Nrc)
  deriving DecidableEq, Repr

end Sys2Proof
end

