-- ==== Sys2Proof/WellFormed.lean ====
section
/-! DEFINITION. Which operand values the spec's encodings admit (30_encoding.md R70 to R83; the `len` and value
conditions of spec/opcode_table.json). -/

namespace Sys2Proof

/-- A sub-function byte outside {0x01, 0x02} (R181, R193). -/
def otherSubFn (b : Byte) : Bool := b != 0x01 && b != 0x02

/-- One of the three supported service identifiers, `SID_SET` (R10, R78). -/
def supportedSid (b : Byte) : Bool := b == Config.sidDsc || b == Config.sidRmba || b == Config.sidSa

/-- The operands are those the row's encoding can carry. Every constructor has its own line. -/
def wellFormed : Instr → Bool
  | .sf _ _ => true
  | .ff _ _ => true
  | .cfLead _ _ => true
  | .fcLead _ _ => true
  | .rsv47Lead _ _ => true
  | .rsv8FLead _ _ => true
  | .cf _ _ => true
  | .cfMismatch _ => true
  | .fc _ => true
  | .fcMismatch f => f.b0 != Config.fcCts
  | .sfTx p => decide (p.length ≤ Config.sfMax)
  | .ffTx p => decide (Config.sfMax < p.length) && decide (p.length ≤ Config.msgMax)
  | .cfTx _ _ => true
  | .fcTx => true
  | .empty => true
  | .ignored80FF _ rest => decide (rest.length + 1 ≤ Config.rxCap)
  | .ignored407F _ rest => decide (rest.length + 1 ≤ Config.rxCap)
  | .shortDsc => true
  | .shortRmba => true
  | .shortSa => true
  | .dsc01 rest => decide (rest.length + 2 ≤ Config.rxCap)
  | .dsc02 rest => decide (rest.length + 2 ≤ Config.rxCap)
  | .dscOther sf rest => otherSubFn sf && decide (rest.length + 2 ≤ Config.rxCap)
  | .saSeed rest => decide (rest.length + 2 ≤ Config.rxCap)
  | .saKey key => decide (key.length + 2 ≤ Config.rxCap)
  | .saOther sf rest => otherSubFn sf && decide (rest.length + 2 ≤ Config.rxCap)
  | .rmba _ _ spans => decide (spans.length + 2 ≤ Config.rxCap)
  | .unsupported sid rest =>
      decide (sid ≤ Config.sidReqMax) && !supportedSid sid && decide (rest.length + 1 ≤ Config.rxCap)
  | .posDsc sf => !otherSubFn sf
  | .posRmba data => decide (data.length + 1 ≤ Config.msgMax)
  | .posSaSeed => true
  | .posSaKey => true
  | .neg sid _ => decide (sid ≤ Config.sidReqMax)

end Sys2Proof
end

