-- ==== Sys2Proof/Decode.lean ====
section
/-! DEFINITION. Decoding and encoding (30_encoding.md R70 to R88): the bit-field and byte-order helpers, the decode of
each of the six formats, the encoder written from the same tables, the opcode table as data, and the host's view of it.
Decoding is total on any bytes: what a format does not carry is rejected by name. -/

namespace Sys2Proof

/-! ## Bits and sequences (00_scope.md R13, R14) -/

/-- `hi(b)`: bits 7..4 (R13). -/
def hi (b : Byte) : Nibble := b.extractLsb' 4 4

/-- `lo(b)`: bits 3..0 (R13). -/
def lo (b : Byte) : Nibble := b.extractLsb' 0 4

/-- The byte whose high nibble is `h` and low nibble `l` (R13). -/
def nibbles (h l : Nibble) : Byte := h ++ l

/-- `be(s)`: the big-endian unsigned value, 0 for the empty sequence; unbounded (R14, R12). -/
def be (s : List Byte) : Nat := s.foldl (fun v b => v * 256 + b.toNat) 0

/-- The first seven bytes of `s`, zeros after its end (the tail part of `pad8`, R14). -/
def padSeven (s : List Byte) : Seven :=
  ⟨s.getD 0 0, s.getD 1 0, s.getD 2 0, s.getD 3 0, s.getD 4 0, s.getD 5 0, s.getD 6 0⟩

/-- `pad8(s)`: `s` followed by bytes 0x00 up to eight (R14). -/
def pad8 (s : List Byte) : Frame := ⟨s.getD 0 0, padSeven (s.drop 1)⟩

/-- `LEN = (lo(f[0]) << 8) | f[1]` (R73, R53). -/
def firstFrameLen (b0 b1 : Byte) : BitVec 12 := lo b0 ++ b1

/-- Byte 0 of a first frame that declares `len`: `0x10 | (len >> 8)` (R73, R102). -/
def firstFrameByte0 (len : BitVec 12) : Byte := nibbles 1 (len.extractLsb' 8 4)

/-- Byte 1 of a first frame that declares `len`: `len & 0xFF` (R73, R102). -/
def firstFrameByte1 (len : BitVec 12) : Byte := len.extractLsb' 0 8

/-- Exactly seven bytes, or none. -/
def sevenOf? : List Byte → Option Seven
  | [b1, b2, b3, b4, b5, b6, b7] => some ⟨b1, b2, b3, b4, b5, b6, b7⟩
  | _ => none

/-- Exactly eight bytes, or none (R70). -/
def frameOf? : List Byte → Option Frame
  | [] => none
  | b0 :: s => (sevenOf? s).map fun d => ⟨b0, d⟩

/-- The frame whose byte 0 is `b0` and whose next byte is `b1` (a first frame's layout, R73). -/
def frameOfSix (b0 b1 : Byte) (d : Six) : Frame := ⟨b0, ⟨b1, d.b2, d.b3, d.b4, d.b5, d.b6, d.b7⟩⟩

/-- The last six bytes of a frame, `f[2]` .. `f[7]`. -/
def sixOf (d : Seven) : Six := ⟨d.b2, d.b3, d.b4, d.b5, d.b6, d.b7⟩

/-! ## The NRC table (10_state.md R33) -/

/-- `nrcCode(name)`: the code of the row with that name (R33, R159). -/
def nrcCode : Nrc → Byte
  | .serviceNotSupported => 0x11
  | .subFunctionNotSupported => 0x12
  | .incorrectMessageLengthOrInvalidFormat => 0x13
  | .requestSequenceError => 0x24
  | .requestOutOfRange => 0x31
  | .securityAccessDenied => 0x33
  | .invalidKey => 0x35
  | .subFunctionNotSupportedInActiveSession => 0x7E
  | .serviceNotSupportedInActiveSession => 0x7F

/-- `nrcName(code)`: the name of the row with that code, none for any other code (R33). -/
def nrcName (code : Byte) : Option Nrc :=
  if code = 0x11 then some .serviceNotSupported
  else if code = 0x12 then some .subFunctionNotSupported
  else if code = 0x13 then some .incorrectMessageLengthOrInvalidFormat
  else if code = 0x24 then some .requestSequenceError
  else if code = 0x31 then some .requestOutOfRange
  else if code = 0x33 then some .securityAccessDenied
  else if code = 0x35 then some .invalidKey
  else if code = 0x7E then some .subFunctionNotSupportedInActiveSession
  else if code = 0x7F then some .serviceNotSupportedInActiveSession
  else none

/-! ## Decoding -/

/-- Which table a byte sequence is read by (R77, R79, R88): the waiting phase for a received frame (in RX_CF with the
expected sequence number), the send side for a sent frame (with the payload being sent, `p` of R100, which a first frame
carries in part: log 14), a delivered request, a sent response. -/
inductive Context where
  | rxIdle
  | rxCf (seq : Nibble)
  | txWaitFc
  | tx (payload : List Byte)
  | req
  | rsp
  deriving DecidableEq, Repr

/-- Why a byte sequence is no instruction of its format. -/
inductive DecodeError where
  /-- A frame is exactly 8 bytes (R70). -/
  | notEightBytes
  /-- No delivered message is longer than 4101 bytes (R70, R150). -/
  | requestTooLong
  /-- A single frame sent by the block has a length nibble 0..7 (R72, row SF.tx). -/
  | txSingleLength
  /-- A single frame sent by the block is padded with zeros (R72). -/
  | txSinglePadding
  /-- A first frame sent by the block declares a length of 8..4095 (R73, row FF.tx). -/
  | txFirstLength
  /-- A first frame sent by the block declares the length of the payload being sent and carries its first six bytes
  (R102, row FF.tx: `LEN = tx_len`, `DATA` payload bytes 0..5). -/
  | txFirstPayload
  /-- The flow-control frame the block sends is one constant (R75, R124). -/
  | txFlowControl
  /-- The block sends no frame of type nibble 4..15 (R76), and of type nibble 3 only 0x30 (R75). -/
  | txType
  /-- No response of the block begins so (R83). -/
  | rspIdentifier
  /-- A response with this first byte has another length or content (R83). -/
  | rspBody
  /-- The third byte of a negative response is one of nine codes (R33). -/
  | rspNrc
  deriving DecidableEq, Repr

/-- A frame taken in RX_IDLE, decoded by its type nibble (R77, R121; rows SF .. RSV8-F.lead). -/
def decodeLead (f : Frame) : Instr :=
  if hi f.b0 = 0 then .sf (lo f.b0) f.rest
  else if hi f.b0 = 1 then .ff (firstFrameLen f.b0 f.rest.b1) (sixOf f.rest)
  else if hi f.b0 = 2 then .cfLead (lo f.b0) f.rest
  else if hi f.b0 = 3 then .fcLead (lo f.b0) f.rest
  else if f.b0.extractLsb' 7 1 = 0 then .rsv47Lead (f.b0.extractLsb' 0 6) f.rest
  else .rsv8FLead (f.b0.extractLsb' 0 7) f.rest

/-- A frame taken in RX_CF with `seq` expected: the test is on the whole of byte 0 (R77, R125, R126). -/
def decodeCf (seq : Nibble) (f : Frame) : Instr :=
  if f.b0 = nibbles 2 seq then .cf seq f.rest else .cfMismatch f

/-- A frame taken in TX_WAIT_FC (R77, R103, R105). -/
def decodeFc (f : Frame) : Instr :=
  if f.b0 = Config.fcCts then .fc f.rest else .fcMismatch f

/-- Session control by sub-function, the whole byte compared (R80). -/
def decodeDsc : List Byte → Instr
  | [] => .shortDsc
  | sf :: rest => if sf = 0x01 then .dsc01 rest else if sf = 0x02 then .dsc02 rest else .dscOther sf rest

/-- Security access by sub-function (R81). -/
def decodeSa : List Byte → Instr
  | [] => .shortSa
  | sf :: rest => if sf = 0x01 then .saSeed rest else if sf = 0x02 then .saKey rest else .saOther sf rest

/-- Read memory by address: the format byte's high nibble counts address bytes, its low nibble size bytes (R82). -/
def decodeRmba : List Byte → Instr
  | [] => .shortRmba
  | fmt :: spans => .rmba (hi fmt) (lo fmt) spans

/-- A delivered message, classified in the order of R79. -/
def decodeReq : List Byte → Instr
  | [] => .empty
  | sid :: p =>
    if sid.extractLsb' 7 1 = 1 then .ignored80FF (sid.extractLsb' 0 7) p
    else if Config.sidReqMax < sid then .ignored407F (sid.extractLsb' 0 6) p
    else if sid = Config.sidDsc then decodeDsc p
    else if sid = Config.sidRmba then decodeRmba p
    else if sid = Config.sidSa then decodeSa p
    else .unsupported sid p

/-- A single frame of the send side: length 0..7, zero padding (R72, R101). -/
def decodeTxSingle (f : Frame) : Except DecodeError Instr :=
  if 7 < (lo f.b0).toNat then .error .txSingleLength
  else if f.rest.toList.drop (lo f.b0).toNat = List.replicate (7 - (lo f.b0).toNat) 0 then
    .ok (.sfTx (f.rest.toList.take (lo f.b0).toNat))
  else .error .txSinglePadding

/-- A first frame of the send side: its length field is that of the payload `p` being sent, its six data bytes the
first six of `p`, and `p` is the operand (R73, R102; log 14). -/
def decodeTxFirst (p : List Byte) (f : Frame) : Except DecodeError Instr :=
  if (firstFrameLen f.b0 f.rest.b1).toNat ≤ Config.sfMax then .error .txFirstLength
  else if p.length = (firstFrameLen f.b0 f.rest.b1).toNat ∧ p.take Config.ffData = (sixOf f.rest).toList then
    .ok (.ffTx p)
  else .error .txFirstPayload

/-- A frame of the send side while the payload `p` is being sent (R72 to R76; rows SF.tx, FF.tx, CF.tx, FC.tx). -/
def decodeTx (p : List Byte) (f : Frame) : Except DecodeError Instr :=
  if hi f.b0 = 0 then decodeTxSingle f
  else if hi f.b0 = 1 then decodeTxFirst p f
  else if hi f.b0 = 2 then .ok (.cfTx (lo f.b0) f.rest)
  else if f.b0 = Config.fcCts then
    if f.rest.toList = List.replicate 7 0 then .ok .fcTx else .error .txFlowControl
  else .error .txType

/-- A response the block sends (R83; rows POS.DSC .. NEG). -/
def decodeRsp : List Byte → Except DecodeError Instr
  | [] => .error .rspIdentifier
  | r :: body =>
    if r = 0x50 then
      match body with
      | [sf] => if otherSubFn sf then .error .rspBody else .ok (.posDsc sf)
      | _ => .error .rspBody
    else if r = 0x63 then
      if body.length + 1 ≤ Config.msgMax then .ok (.posRmba body) else .error .rspBody
    else if r = 0x67 then
      if body = Config.seed then .ok .posSaSeed
      else if body = [0x02] then .ok .posSaKey
      else .error .rspBody
    else if r = Config.negSid then
      match body with
      | [sid, code] =>
        if sid ≤ Config.sidReqMax then
          match nrcName code with
          | some n => .ok (.neg sid n)
          | none => .error .rspNrc
        else .error .rspBody
      | _ => .error .rspBody
    else .error .rspIdentifier

/-- The decoder: total on any bytes in any context, rejecting by name (R77, R79, R88). -/
def decode : Context → List Byte → Except DecodeError Instr
  | .rxIdle, s =>
    match frameOf? s with
    | some f => .ok (decodeLead f)
    | none => .error .notEightBytes
  | .rxCf seq, s =>
    match frameOf? s with
    | some f => .ok (decodeCf seq f)
    | none => .error .notEightBytes
  | .txWaitFc, s =>
    match frameOf? s with
    | some f => .ok (decodeFc f)
    | none => .error .notEightBytes
  | .tx p, s =>
    match frameOf? s with
    | some f => decodeTx p f
    | none => .error .notEightBytes
  | .req, s => if s.length ≤ Config.rxCap then .ok (decodeReq s) else .error .requestTooLong
  | .rsp, s => decodeRsp s

/-! ## Encoding -/

/-- The bytes of an instruction: the eight bytes of a frame, the bytes of a message (R70, R72 to R83). -/
def encode : Instr → List Byte
  | .sf l d => nibbles 0 l :: d.toList
  | .ff len d => firstFrameByte0 len :: firstFrameByte1 len :: d.toList
  | .cfLead sn d => nibbles 2 sn :: d.toList
  | .fcLead low d => nibbles 3 low :: d.toList
  | .rsv47Lead low d => ((1 : BitVec 2) ++ low) :: d.toList
  | .rsv8FLead low d => ((1 : BitVec 1) ++ low) :: d.toList
  | .cf sn d => nibbles 2 sn :: d.toList
  | .cfMismatch f => f.bytes
  | .fc d => Config.fcCts :: d.toList
  | .fcMismatch f => f.bytes
  | .sfTx p => nibbles 0 (BitVec.ofNat 4 p.length) :: (p ++ List.replicate (7 - p.length) 0)
  | .ffTx p => firstFrameByte0 (BitVec.ofNat 12 p.length) :: firstFrameByte1 (BitVec.ofNat 12 p.length) ::
      p.take Config.ffData
  | .cfTx sn d => nibbles 2 sn :: d.toList
  | .fcTx => Config.fcCts :: List.replicate 7 0
  | .empty => []
  | .ignored80FF sid rest => ((1 : BitVec 1) ++ sid) :: rest
  | .ignored407F sid rest => ((1 : BitVec 2) ++ sid) :: rest
  | .shortDsc => [Config.sidDsc]
  | .shortRmba => [Config.sidRmba]
  | .shortSa => [Config.sidSa]
  | .dsc01 rest => Config.sidDsc :: 0x01 :: rest
  | .dsc02 rest => Config.sidDsc :: 0x02 :: rest
  | .dscOther sf rest => Config.sidDsc :: sf :: rest
  | .saSeed rest => Config.sidSa :: 0x01 :: rest
  | .saKey key => Config.sidSa :: 0x02 :: key
  | .saOther sf rest => Config.sidSa :: sf :: rest
  | .rmba a z spans => Config.sidRmba :: nibbles a z :: spans
  | .unsupported sid rest => sid :: rest
  | .posDsc sf => [0x50, sf]
  | .posRmba data => 0x63 :: data
  | .posSaSeed => 0x67 :: Config.seed
  | .posSaKey => [0x67, 0x02]
  | .neg sid n => [Config.negSid, sid, nrcCode n]

/-- The contexts in which the instruction's bytes are read as that instruction (R77, R88). -/
def admits : Context → Instr → Bool
  | .rxIdle, i =>
    match i with
    | .sf _ _ | .ff _ _ | .cfLead _ _ | .fcLead _ _ | .rsv47Lead _ _ | .rsv8FLead _ _ => true
    | _ => false
  | .rxCf seq, i =>
    match i with
    | .cf sn _ => sn == seq
    | .cfMismatch f => f.b0 != nibbles 2 seq
    | _ => false
  | .txWaitFc, i =>
    match i with
    | .fc _ | .fcMismatch _ => true
    | _ => false
  | .tx p, i =>
    match i with
    | .ffTx q => q == p
    | .sfTx _ | .cfTx _ _ | .fcTx => true
    | _ => false
  | .req, i =>
    match i with
    | .empty | .ignored80FF _ _ | .ignored407F _ _ | .shortDsc | .shortRmba | .shortSa | .dsc01 _ | .dsc02 _
    | .dscOther _ _ | .saSeed _ | .saKey _ | .saOther _ _ | .rmba _ _ _ | .unsupported _ _ => true
    | _ => false
  | .rsp, i =>
    match i with
    | .posDsc _ | .posRmba _ | .posSaSeed | .posSaKey | .neg _ _ => true
    | _ => false

/-! ## The opcode table as data (30_encoding.md R88) -/

/-- The six formats of the table. -/
inductive Format where
  | frameRxIdle
  | frameRxCf
  | frameTxWaitFc
  | frameTx
  | msgReq
  | msgRsp
  deriving DecidableEq, Repr

/-- The format whose rows a byte sequence is read by. -/
def Context.format : Context → Format
  | .rxIdle => .frameRxIdle
  | .rxCf _ => .frameRxCf
  | .txWaitFc => .frameTxWaitFc
  | .tx _ => .frameTx
  | .req => .msgReq
  | .rsp => .msgRsp

/-- The one test of the table that no mask can write: `SN`, bits 59:56, must equal `rx_seq` (R88). -/
inductive DynamicTest where
  | nothing
  | snIsRxSeq
  deriving DecidableEq, Repr

/-- A row: `match`, `mask`, the `len` condition (between `least` and, where there is one, `most`) and the dynamic test. -/
structure Row where
  format  : Format
  pattern : BitVec 64
  mask    : BitVec 64
  least   : Nat
  most    : Option Nat
  test    : DynamicTest
  deriving DecidableEq, Repr

/-- A frame's row: always 8 bytes, no dynamic test. -/
def frameRow (fmt : Format) (pattern mask : BitVec 64) : Row := ⟨fmt, pattern, mask, 8, some 8, .nothing⟩

/-- A request's row, with its `len` condition. -/
def reqRow (pattern mask : BitVec 64) (least : Nat) (most : Option Nat) : Row := ⟨.msgReq, pattern, mask, least, most, .nothing⟩

/-- A response's row, with its `len` condition. -/
def rspRow (pattern mask : BitVec 64) (least most : Nat) : Row := ⟨.msgRsp, pattern, mask, least, some most, .nothing⟩

/-- The row of the accepted consecutive frame, with its dynamic test (R88). -/
def acceptedCfRow : Row := ⟨.frameRxCf, 0x2000000000000000, 0xF000000000000000, 8, some 8, .snIsRxSeq⟩

/-- The word `W` of a frame, `f[0]` in bits 63:56 (R13). -/
def frameWord (f : Frame) : BitVec 64 :=
  f.b0 ++ f.rest.b1 ++ f.rest.b2 ++ f.rest.b3 ++ f.rest.b4 ++ f.rest.b5 ++ f.rest.b6 ++ f.rest.b7

/-- The word `M` of a message, `m[0]` in bits 15:8, a missing byte read as 0 (R13, R88). -/
def messageWord (m : List Byte) : BitVec 64 := ((0 : BitVec 48) ++ m.getD 0 0) ++ m.getD 1 0

/-- The row matches a word and a length: `(W & mask) == match` and the row's `len` condition (R88). -/
def Row.matchesWord (r : Row) (w : BitVec 64) (len : Nat) : Bool :=
  (w &&& r.mask) == r.pattern && decide (r.least ≤ len) && (match r.most with
    | some k => decide (len ≤ k)
    | none => true)

/-- The row's dynamic test in a context, where it has one (R88). -/
def Row.dynamicOk (r : Row) (c : Context) (w : BitVec 64) : Bool :=
  match r.test, c with
  | .nothing, _ => true
  | .snIsRxSeq, .rxCf seq => w.extractLsb' 56 4 == seq
  | .snIsRxSeq, _ => false

/-- The row of spec/opcode_table.json an instruction stands for. -/
def tableRow : Instr → Row
  | .sf _ _ => frameRow .frameRxIdle 0x0000000000000000 0xF000000000000000
  | .ff _ _ => frameRow .frameRxIdle 0x1000000000000000 0xF000000000000000
  | .cfLead _ _ => frameRow .frameRxIdle 0x2000000000000000 0xF000000000000000
  | .fcLead _ _ => frameRow .frameRxIdle 0x3000000000000000 0xF000000000000000
  | .rsv47Lead _ _ => frameRow .frameRxIdle 0x4000000000000000 0xC000000000000000
  | .rsv8FLead _ _ => frameRow .frameRxIdle 0x8000000000000000 0x8000000000000000
  | .cf _ _ => acceptedCfRow
  | .cfMismatch _ => frameRow .frameRxCf 0 0
  | .fc _ => frameRow .frameTxWaitFc 0x3000000000000000 0xFF00000000000000
  | .fcMismatch _ => frameRow .frameTxWaitFc 0 0
  | .sfTx _ => frameRow .frameTx 0x0000000000000000 0xF800000000000000
  | .ffTx _ => frameRow .frameTx 0x1000000000000000 0xF000000000000000
  | .cfTx _ _ => frameRow .frameTx 0x2000000000000000 0xF000000000000000
  | .fcTx => frameRow .frameTx 0x3000000000000000 0xFFFFFFFFFFFFFFFF
  | .empty => reqRow 0x0000 0x0000 0 (some 0)
  | .ignored80FF _ _ => reqRow 0x8000 0x8000 1 none
  | .ignored407F _ _ => reqRow 0x4000 0xC000 1 none
  | .shortDsc => reqRow 0x1000 0xFF00 1 (some 1)
  | .shortRmba => reqRow 0x2300 0xFF00 1 (some 1)
  | .shortSa => reqRow 0x2700 0xFF00 1 (some 1)
  | .dsc01 _ => reqRow 0x1001 0xFFFF 2 none
  | .dsc02 _ => reqRow 0x1002 0xFFFF 2 none
  | .dscOther _ _ => reqRow 0x1000 0xFF00 2 none
  | .saSeed _ => reqRow 0x2701 0xFFFF 2 none
  | .saKey _ => reqRow 0x2702 0xFFFF 2 none
  | .saOther _ _ => reqRow 0x2700 0xFF00 2 none
  | .rmba _ _ _ => reqRow 0x2300 0xFF00 2 none
  | .unsupported _ _ => reqRow 0x0000 0x0000 1 none
  | .posDsc _ => rspRow 0x5000 0xFF00 2 2
  | .posRmba _ => rspRow 0x6300 0xFF00 1 4095
  | .posSaSeed => rspRow 0x6701 0xFFFF 6 6
  | .posSaKey => rspRow 0x6702 0xFFFF 2 2
  | .neg _ _ => rspRow 0x7F00 0xFF00 3 3

/-- The rows of each format of spec/opcode_table.json, in priority order (R88). -/
def rows : Format → List Row
  | .frameRxIdle =>
    [frameRow .frameRxIdle 0x0000000000000000 0xF000000000000000,
     frameRow .frameRxIdle 0x1000000000000000 0xF000000000000000,
     frameRow .frameRxIdle 0x2000000000000000 0xF000000000000000,
     frameRow .frameRxIdle 0x3000000000000000 0xF000000000000000,
     frameRow .frameRxIdle 0x4000000000000000 0xC000000000000000,
     frameRow .frameRxIdle 0x8000000000000000 0x8000000000000000]
  | .frameRxCf => [acceptedCfRow, frameRow .frameRxCf 0 0]
  | .frameTxWaitFc =>
    [frameRow .frameTxWaitFc 0x3000000000000000 0xFF00000000000000, frameRow .frameTxWaitFc 0 0]
  | .frameTx =>
    [frameRow .frameTx 0x0000000000000000 0xF800000000000000,
     frameRow .frameTx 0x1000000000000000 0xF000000000000000,
     frameRow .frameTx 0x2000000000000000 0xF000000000000000,
     frameRow .frameTx 0x3000000000000000 0xFFFFFFFFFFFFFFFF]
  | .msgReq =>
    [reqRow 0x0000 0x0000 0 (some 0),
     reqRow 0x8000 0x8000 1 none, reqRow 0x4000 0xC000 1 none,
     reqRow 0x1000 0xFF00 1 (some 1), reqRow 0x2300 0xFF00 1 (some 1), reqRow 0x2700 0xFF00 1 (some 1),
     reqRow 0x1001 0xFFFF 2 none, reqRow 0x1002 0xFFFF 2 none, reqRow 0x1000 0xFF00 2 none,
     reqRow 0x2701 0xFFFF 2 none, reqRow 0x2702 0xFFFF 2 none, reqRow 0x2700 0xFF00 2 none,
     reqRow 0x2300 0xFF00 2 none, reqRow 0x0000 0x0000 1 none]
  | .msgRsp =>
    [rspRow 0x5000 0xFF00 2 2, rspRow 0x6300 0xFF00 1 4095, rspRow 0x6701 0xFFFF 6 6, rspRow 0x6702 0xFFFF 2 2,
     rspRow 0x7F00 0xFF00 3 3]

/-- The first row of the context's format that matches a word and a length, dynamic test included: "the decode" (R88). -/
def firstRow (c : Context) (w : BitVec 64) (len : Nat) : Option Row :=
  (rows c.format).find? fun r => r.matchesWord w len && r.dynamicOk c w

/-! ## The host's view: one word per row -/

/-- The low byte number `k` of `w`, byte 0 the least significant. -/
def byteOfNat (w k : Nat) : Byte := BitVec.ofNat 8 (w / 256 ^ k)

/-- The frame of a 64-bit word, `f[0]` the most significant byte (R13). -/
def frameOfWord (w : Nat) : Frame :=
  ⟨byteOfNat w 7, ⟨byteOfNat w 6, byteOfNat w 5, byteOfNat w 4, byteOfNat w 3, byteOfNat w 2, byteOfNat w 1, byteOfNat w 0⟩⟩

/-- The message of `n` bytes of a word, `m[0]` the most significant byte (R13). -/
def messageOfWord : Nat → Nat → List Byte
  | 0, _ => []
  | n + 1, w => byteOfNat w n :: messageOfWord n w

/-- What the block reads from the bits of one table word, numbered as R13 numbers them (log 12): 64 bits are a frame
taken in RX_IDLE, the phase in which every transfer begins; fewer are a delivered request of that many whole bytes. -/
def decodeTableWord (nbits w : Nat) : Option Instr :=
  if nbits = 64 then some (decodeLead (frameOfWord w))
  else if nbits < 64 then some (decodeReq (messageOfWord (nbits / 8) w))
  else none

end Sys2Proof
end

