-- ==== Sys2Proof/Machine/State.lean ====
section
/-! DEFINITION. The state of one block instance (10_state.md R20 to R38), the reasons a step can stop, and reset (R37). -/

namespace Sys2Proof.Machine

/-- `phase`: which receive event the block waits for (R21). -/
inductive Phase where
  | rxIdle
  | rxCf
  | txWaitFc
  | closed
  deriving DecidableEq, Repr

/-- `session`: 0 none, 1 default explicit, 2 extended (R22). Code 3 is never written and has no value (D19). -/
inductive Session where
  | none
  | default
  | extended
  deriving DecidableEq, Repr

/-- `lock`: 0 locked, 1 seed issued, 2 unlocked (R23). Code 3 is never written and has no value (D19). -/
inductive Lock where
  | locked
  | seedIssued
  | unlocked
  deriving DecidableEq, Repr

/-- The two-bit code of a session value (R22). -/
def Session.code : Session → BitVec 2
  | .none => 0
  | .default => 1
  | .extended => 2

/-- The two-bit code of a lock value (R23). -/
def Lock.code : Lock → BitVec 2
  | .locked => 0
  | .seedIssued => 1
  | .unlocked => 2

/-- The five transport-fault kinds (60_exceptions.md R232). -/
inductive TFault where
  | leadType
  | cfSeq
  | cfAbsent
  | fcBad
  | fcAbsent
  deriving DecidableEq, Repr

/-- A receive event (00_scope.md R16). -/
inductive Event where
  | frame (f : Frame)
  | timeout
  | closed
  deriving DecidableEq, Repr

/-- The firmware image space: one cell per byte of the image, in address order (20_memory.md R50, R51; log 4). -/
abbrev Memory := List Host.Cell

/-- The state of one instance, with its input and the outputs of its last step. -/
structure State where
  /-- R21 -/
  phase   : Phase
  /-- R22 -/
  session : Session
  /-- R23 -/
  lock    : Lock
  /-- R25: the length declared by the first frame -/
  rxSize  : BitVec 12
  /-- R26: bytes accumulated -/
  rxLen   : BitVec 13
  /-- R27: the sequence number expected next -/
  rxSeq   : Nibble
  /-- R28: the reassembly buffer, the bytes held so far -/
  rxBuf   : List Byte
  /-- R29: the length of the response held -/
  txLen   : BitVec 12
  /-- R30: the response held -/
  txBuf   : List Byte
  /-- R50, R51: the firmware image, a parameter no step writes -/
  mem     : Memory
  /-- R57: the receive events still to be delivered, the next one first (log 5) -/
  inbox   : List Event
  /-- R16, R58: the frames this step has emitted, in order (log 8) -/
  out     : List Frame
  /-- R34: the transport-fault kind this step reports (log 8) -/
  tfault  : Option TFault
  deriving DecidableEq, Repr

/-- Why the machine stops with a fault. -/
inductive Fault where
  /-- An accepted consecutive frame has no room in `rx_buf` (capacity 4101, R28). Raised by `CF` alone, in no state a
  run from reset reaches; the spec gives an overflow no behaviour (D5). Safe: the model stops (log 10). -/
  | rxBufferOverflow
  deriving DecidableEq, Repr

/-- Why the model gives an instruction no meaning. -/
inductive Refusal where
  /-- The instruction has no meaning in this model yet. Raised by `exec` alone. Safe. -/
  | notModelled (mnemonic : String)
  /-- A payload of `n` bytes for a sent frame that cannot carry it: more than 4095 bytes handed to `Write` (R108, D15),
  or an `SF.tx` or `FF.tx` outside its operand range (R101, R102). Raised by `SF.tx` and `FF.tx`. Safe (log 11). -/
  | payloadLength (n : Nat)
  deriving DecidableEq, Repr

/-- The answer of a meaning. -/
abbrev Outcome := Host.Outcome State Fault Refusal

/-- The state right after reset (R37): RX_IDLE, session 0, locked; no step has run, so no output. The transfer registers
are unspecified there and hold zero or nothing here (log 1); the image is a parameter, here the empty one (log 3). -/
def State.reset : State where
  phase := .rxIdle
  session := .none
  lock := .locked
  rxSize := 0
  rxLen := 0
  rxSeq := 0
  rxBuf := []
  txLen := 0
  txBuf := []
  mem := []
  inbox := []
  out := []
  tfault := none

end Sys2Proof.Machine
end

