-- ==== Sys2Proof/Machine/Operands.lean ====
section
/-! DEFINITION. Every operand form of the block: the payload of a received single frame, the spans of a read-memory
request, the last key byte (30_encoding.md R72, R81, R82). Naturals are unbounded (00_scope.md R12). -/

namespace Sys2Proof.Machine

/-- The message a single frame delivers: `f[1 : min(L, 7) + 1]` (R122). -/
def singlePayload (l : Nibble) (data : Seven) : List Byte := data.toList.take (min l.toNat Config.sfMax)

/-- `addr = be(p[1 : 1 + a])`, the spans being `p[1:]` (R212). -/
def rmbaAddr (a : Nibble) (spans : List Byte) : Nat := be (spans.take a.toNat)

/-- `size = be(p[1 + a : 1 + a + z])`, the spans being `p[1:]` (R212). -/
def rmbaSize (a z : Nibble) (spans : List Byte) : Nat := be ((spans.drop a.toNat).take z.toNat)

/-- The last key byte, `p[4]` of the sub-message and index 3 of the bytes after the sub-function (R192). -/
def lastKeyByte (key : List Byte) : Byte := key.getD 3 0

end Sys2Proof.Machine
end

