-- ==== Sys2Proof/Machine/Flags.lean ====
section
/-! DEFINITION. The block has no persistent flag or condition code; its one transient condition is the handler outcome
(10_state.md R35). Here stand that outcome and every condition the handlers test, each once. -/

namespace Sys2Proof.Machine

/-- How a service handler ends: `(true, data)` or `(false, faultName)` (R35, 42_engine_dispatch.md R156). -/
inductive HandlerOutcome where
  | positive (data : List Byte)
  | negative (nrc : Nrc)
  deriving DecidableEq, Repr

/-- The session test of services 0x27 and 0x23: `session == 2` (R190, R210). -/
def inExtendedSession (s : State) : Bool := s.session == .extended

/-- A seed has been issued and not used: `lock == 1` (R192). -/
def seedIsIssued (s : State) : Bool := s.lock == .seedIssued

/-- Memory access is unlocked: `lock == 2` (R210). -/
def isUnlocked (s : State) : Bool := s.lock == .unlocked

/-- sendKey's length test: the sub-message, sub-function included, is exactly 5 bytes (R192). -/
def keyLengthOk (key : List Byte) : Bool := key.length + 1 == 5

/-- sendKey's key test: the last byte alone is compared (R192). -/
def keyOk (key : List Byte) : Bool := lastKeyByte key == Config.keyLast

/-- Read-memory's length test: the sub-message is exactly `1 + a + z` bytes (R211). -/
def spansLengthOk (a z : Nibble) (spans : List Byte) : Bool := spans.length + 1 == 1 + a.toNat + z.toNat

/-- Read-memory's range test, on unbounded naturals (R213). -/
def rangeOk (fwLen addr size : Nat) : Bool :=
  decide (size ≤ Config.rmbaMaxSize ∧ Config.memBase ≤ addr ∧ addr + size ≤ Config.memBase + fwLen)

/-- Reassembly stops once the accumulated length reaches the declared size (R123, R125). -/
def messageComplete (accumulated : Nat) (declared : BitVec 12) : Bool := decide (declared.toNat ≤ accumulated)

end Sys2Proof.Machine
end

