-- ==== Sys2Proof/Machine/Ops.lean ====
section
/-! DEFINITION. The named operations over memory, channel and registers: reading the firmware space, emitting frames,
`Write` and the burst, `Respond` and the raising of an NRC, the raising of a transport fault, the asynchronous events,
and taking the next receive event. -/

namespace Sys2Proof.Machine

/-! ## The firmware space (20_memory.md R50 to R52, R56) -/

/-- The image cells of `fw` from address `a` on. -/
def cellsFrom : Nat → List Byte → Memory
  | _, [] => []
  | a, b :: bs => (a, b) :: cellsFrom (a + 1) bs

/-- The firmware space of the image `fw`: byte `i` at `MEM_BASE + i` (R52). -/
def Memory.ofImage (fw : List Byte) : Memory := cellsFrom Config.memBase fw

/-- `FW`, the bytes of the image in address order (R11). -/
def Memory.image (m : Memory) : List Byte := m.map Prod.snd

/-- `FW_LEN` (R11, R59). -/
def Memory.fwLen (m : Memory) : Nat := m.length

/-- The cells stand at consecutive addresses from `a`. -/
def cellsAt : Nat → Memory → Bool
  | _, [] => true
  | a, c :: cs => c.1 == a && cellsAt (a + 1) cs

/-- The canonical form: the listed addresses are exactly `MEM_BASE` .. `MEM_BASE + FW_LEN - 1`, rising (R50). An
unlisted address holds nothing (R56), so no entry can equal what it reads as. -/
def Memory.wf (m : Memory) : Bool := cellsAt Config.memBase m

/-- The byte at one address, none where nothing exists (R50, R56). -/
def Memory.readByte (m : Memory) (a : Nat) : Option Byte :=
  match m with
  | [] => none
  | c :: cs => if c.1 = a then some c.2 else Memory.readByte cs a

/-- `MemRead(addr, n) = FW[addr - MEM_BASE : addr - MEM_BASE + n]` (R52), used after the range check alone. -/
def memRead (m : Memory) (addr n : Nat) : List Byte := (m.image.drop (addr - Config.memBase)).take n

/-- Reset with the firmware image `fw` (R37, R260: "a reference to the shared read-only firmware image"). -/
def State.resetWith (fw : List Byte) : State := { State.reset with mem := Memory.ofImage fw }

/-! ## Sending (40_framer_write.md) -/

/-- `emit(f)`: append `f` to the step's output list (R15, R58). -/
def emit (f : Frame) (s : State) : State := { s with out := s.out ++ [f] }

/-- `pad8([len(p)] ++ p)`, the single frame of a payload of at most 7 bytes (R101). -/
def singleFrame (p : List Byte) : Frame := pad8 (nibbles 0 (BitVec.ofNat 4 p.length) :: p)

/-- `[0x10 | (n >> 8), n & 0xFF] ++ p[0:6]`, the first frame of a payload of `n` bytes (R102). -/
def firstFrame (p : List Byte) : Frame :=
  pad8 (firstFrameByte0 (BitVec.ofNat 12 p.length) :: firstFrameByte1 (BitVec.ofNat 12 p.length) :: p.take 6)

/-- `[0x20 + sn] ++ data`, a consecutive frame (R104). -/
def consecutiveFrame (sn : Nibble) (data : Seven) : Frame := ⟨nibbles 2 sn, data⟩

/-- `[0x30, 0, 0, 0, 0, 0, 0, 0]`, the flow-control frame the block sends (R124). -/
def flowControlFrame : Frame := pad8 [Config.fcCts]

/-- The loop of `CF_burst` over the bytes not yet sent, `sn` the next sequence number (R104). The first argument is
fuel: each frame takes at least one byte, so the number of bytes is enough. -/
def cfLoop : Nat → Nibble → List Byte → List Frame
  | 0, _, _ => []
  | _ + 1, _, [] => []
  | k + 1, sn, b :: bs =>
    consecutiveFrame sn (padSeven ((b :: bs).take Config.cfData)) :: cfLoop k (sn + 1) ((b :: bs).drop Config.cfData)

/-- The consecutive frames of a payload whose first 6 bytes went out in the first frame (R104). -/
def cfFrames (p : List Byte) : List Frame := cfLoop p.length Config.seqFirst (p.drop Config.ffData)

/-- `phase <- RX_IDLE`: wait for the next leading frame. -/
def toIdle (s : State) : State := { s with phase := .rxIdle }

/-- `tx_buf <- p; tx_len <- n; phase <- TX_WAIT_FC` (R102). -/
def awaitFlowControl (p : List Byte) (s : State) : State :=
  { s with txBuf := p, txLen := BitVec.ofNat 12 p.length, phase := .txWaitFc }

/-- `SF_tx(p)` (R101); a longer payload has no single frame (log 11). -/
def sendSingle (p : List Byte) (s : State) : Outcome :=
  if p.length ≤ Config.sfMax then .next (toIdle (emit (singleFrame p) s))
  else .refused (.payloadLength p.length)

/-- `FF_tx(p)` (R102); outside 8..4095 bytes there is no first frame, and `Write` of more is refused (R108, log 11). -/
def sendFirst (p : List Byte) (s : State) : Outcome :=
  if Config.sfMax < p.length ∧ p.length ≤ Config.msgMax then
    .next (awaitFlowControl p (emit (firstFrame p) s))
  else .refused (.payloadLength p.length)

/-- `Write(p)` (R100). -/
def write (p : List Byte) (s : State) : Outcome :=
  if p.length ≤ Config.sfMax then sendSingle p s else sendFirst p s

/-- `CF_burst()` over `tx_buf[0 : tx_len]` (R104). -/
def cfBurst (s : State) : State := { s with out := s.out ++ cfFrames (s.txBuf.take s.txLen.toNat) }

/-! ## Responding and faulting -/

/-- `Respond(sid, outcome)` (42_engine_dispatch.md R157, R158). -/
def respond (sid : Byte) (outcome : HandlerOutcome) (s : State) : Outcome :=
  match outcome with
  | .positive data => write ((sid + Config.posOffset) :: data) s
  | .negative n => write [Config.negSid, sid, nrcCode n] s

/-- Taking a protocol-level fault, `raise Nrc(name)`: the negative response, nothing saved, no mode changed, back to
the wait for a leading frame (60_exceptions.md R235). There is no return: the fault is over in the same step (R237). -/
def raiseNrc (sid : Byte) (n : Nrc) (s : State) : Outcome := respond sid (.negative n) s

/-- Taking a transport fault: reported on `tfault`, nothing emitted, back to RX_IDLE (R232). -/
def raiseTfault (k : TFault) (s : State) : State := { s with tfault := some k, phase := .rxIdle }

/-! ## Asynchronous events and taking the next event -/

/-- The event `Timeout`: a transparent retry in RX_IDLE (R120), a transport fault in the other two waits (R127, R106). -/
def takeTimeout (s : State) : State :=
  match s.phase with
  | .rxIdle => s
  | .rxCf => raiseTfault .cfAbsent s
  | .txWaitFc => raiseTfault .fcAbsent s
  | .closed => s

/-- The event `Closed`: the absorbing phase, nothing emitted (60_exceptions.md R236). -/
def takeClosed (s : State) : State := { s with phase := .closed }

/-- The outputs of a step are empty before anything has happened in it (R16, R34; log 8). -/
def beginStep (s : State) : State := { s with out := [], tfault := none }

/-- The same with one event taken off the receive stream, `q` what is left of it (R57). -/
def consume (q : List Event) (s : State) : State := { s with inbox := q, out := [], tfault := none }

/-- The table a frame is read by in the phase the block waits in; none once closed (R77). -/
def receiveContext (s : State) : Option Context :=
  match s.phase with
  | .rxIdle => some .rxIdle
  | .rxCf => some (.rxCf s.rxSeq)
  | .txWaitFc => some .txWaitFc
  | .closed => none

/-- What a step has to do. -/
inductive Stimulus where
  /-- No event: none is delivered, or the block is closed and takes none. -/
  | idle
  | timeout
  | closed
  /-- A received frame, decoded. -/
  | run (i : Instr)
  deriving DecidableEq, Repr

/-- The instruction a frame is in the phase the block waits in (R77). -/
def frameStimulus (s : State) (f : Frame) : Stimulus :=
  match s.phase with
  | .rxIdle => .run (decodeLead f)
  | .rxCf => .run (decodeCf s.rxSeq f)
  | .txWaitFc => .run (decodeFc f)
  | .closed => .idle

/-- Take the next receive event off the stream (R57: in order, consumed); in CLOSED none is taken (R236). -/
def takeEvent (s : State) : Stimulus × State :=
  match s.phase, s.inbox with
  | .closed, _ => (.idle, beginStep s)
  | _, [] => (.idle, beginStep s)
  | _, .timeout :: q => (.timeout, consume q s)
  | _, .closed :: q => (.closed, consume q s)
  | _, .frame f :: q => (frameStimulus s f, consume q s)

end Sys2Proof.Machine
end

