-- ==== Sys2Proof/Machine/Engine.lean ====
section
/-! DEFINITION. The engine's responses and the messages it handles without a service (42_engine_dispatch.md). -/

namespace Sys2Proof.Machine

/-- `POS.DSC`: `[0x50, sf]` (R157, R83). -/
def execPosDsc (subFn : Byte) (s : State) : Outcome := respond Config.sidDsc (.positive [subFn]) s

/-- `POS.RMBA`: `[0x63] ++ data` (R157, R83). -/
def execPosRmba (data : List Byte) (s : State) : Outcome := respond Config.sidRmba (.positive data) s

/-- `POS.SA.SEED`: `[0x67] ++ SEED` (R157, R191). -/
def execPosSaSeed (s : State) : Outcome := respond Config.sidSa (.positive Config.seed) s

/-- `POS.SA.KEY`: `[0x67, 0x02]` (R157, R192). -/
def execPosSaKey (s : State) : Outcome := respond Config.sidSa (.positive [0x02]) s

/-- `NEG`: `[0x7F, sid, nrc]` (R158). -/
def execNeg (sid : Byte) (n : Nrc) (s : State) : Outcome := raiseNrc sid n s

/-- `EMPTY`: discarded silently (R151). -/
def execEmpty (s : State) : Outcome := .next (toIdle s)

/-- `IGNORED.80-FF`: discarded silently (R152). -/
def execIgnored80FF (_sid : BitVec 7) (_rest : List Byte) (s : State) : Outcome := .next (toIdle s)

/-- `IGNORED.40-7F`: discarded silently (R152). -/
def execIgnored407F (_sid : BitVec 6) (_rest : List Byte) (s : State) : Outcome := .next (toIdle s)

/-- `UNSUPPORTED`: NRC 0x11, whatever the length (R153). -/
def execUnsupported (sid : Byte) (_rest : List Byte) (s : State) : Outcome := execNeg sid .serviceNotSupported s

/-- `SHORT.DSC`: NRC 0x13 (R154). -/
def execShortDsc (s : State) : Outcome := execNeg Config.sidDsc .incorrectMessageLengthOrInvalidFormat s

/-- `SHORT.RMBA`: NRC 0x13 (R154). -/
def execShortRmba (s : State) : Outcome := execNeg Config.sidRmba .incorrectMessageLengthOrInvalidFormat s

/-- `SHORT.SA`: NRC 0x13 (R154). -/
def execShortSa (s : State) : Outcome := execNeg Config.sidSa .incorrectMessageLengthOrInvalidFormat s

end Sys2Proof.Machine
end

