-- ==== Sys2Proof/Machine/ReadMemory.lean ====
section
/-! DEFINITION. Service 0x23 (45_service_read_memory.md), the block's only load. -/

namespace Sys2Proof.Machine

/-- `RMBA`: session, then lock, before any byte of the request is looked at (R210); then the length (R211), the
operands (R212), the range (R213); then the firmware bytes (R214). Nothing but the response is written. -/
def execRmba (a z : Nibble) (spans : List Byte) (s : State) : Outcome :=
  if !inExtendedSession s then execNeg Config.sidRmba .serviceNotSupportedInActiveSession s
  else if !isUnlocked s then execNeg Config.sidRmba .securityAccessDenied s
  else if !spansLengthOk a z spans then execNeg Config.sidRmba .incorrectMessageLengthOrInvalidFormat s
  else if !rangeOk s.mem.fwLen (rmbaAddr a spans) (rmbaSize a z spans) then execNeg Config.sidRmba .requestOutOfRange s
  else execPosRmba (memRead s.mem (rmbaAddr a spans) (rmbaSize a z spans)) s

/-- `Handler[0x23](p)`, the format byte split into its nibbles (R211). -/
def handler23 (fmt : Byte) (spans : List Byte) (s : State) : Outcome := execRmba (hi fmt) (lo fmt) spans s

end Sys2Proof.Machine
end

