-- ==== Sys2Proof/Machine/SecurityAccess.lean ====
section
/-! DEFINITION. Service 0x27 (44_service_security_access.md). The sub-function is tested before the session (R190). -/

namespace Sys2Proof.Machine

/-- `SA.SEED`: `lock <- 1` from any lock state of session 2, and the constant seed (R190, R191). -/
def execSaSeed (_rest : List Byte) (s : State) : Outcome :=
  if inExtendedSession s then execPosSaSeed { s with lock := .seedIssued }
  else execNeg Config.sidSa .subFunctionNotSupportedInActiveSession s

/-- `SA.KEY`: session, then sequence, then length, then the last key byte; on success `lock <- 2` (R190, R192). -/
def execSaKey (key : List Byte) (s : State) : Outcome :=
  if !inExtendedSession s then execNeg Config.sidSa .subFunctionNotSupportedInActiveSession s
  else if !seedIsIssued s then execNeg Config.sidSa .requestSequenceError s
  else if !keyLengthOk key then execNeg Config.sidSa .incorrectMessageLengthOrInvalidFormat s
  else if !keyOk key then execNeg Config.sidSa .invalidKey s
  else execPosSaKey { s with lock := .unlocked }

/-- `SA.other`: NRC 0x12 in every session and lock state (R193). -/
def execSaOther (_subFn : Byte) (_rest : List Byte) (s : State) : Outcome :=
  execNeg Config.sidSa .subFunctionNotSupported s

/-- `Handler[0x27](p)` by the sub-function byte `p[0]` (R190). -/
def handler27 (sf : Byte) (rest : List Byte) (s : State) : Outcome :=
  if sf = 0x01 then execSaSeed rest s
  else if sf = 0x02 then execSaKey rest s
  else execSaOther sf rest s

end Sys2Proof.Machine
end

