-- ==== Sys2Proof/Machine/SessionControl.lean ====
section
/-! DEFINITION. Service 0x10 (43_service_session_control.md): allowed in every session and lock state. -/

namespace Sys2Proof.Machine

/-- `session <- sf; lock <- 0`, both in the same step (R180). -/
def selectSession (v : Session) (s : State) : State := { s with session := v, lock := .locked }

/-- `DSC.01` (R180); the bytes after the sub-function are not examined (R182). -/
def execDsc01 (_rest : List Byte) (s : State) : Outcome := execPosDsc 0x01 (selectSession .default s)

/-- `DSC.02` (R180, R182). -/
def execDsc02 (_rest : List Byte) (s : State) : Outcome := execPosDsc 0x02 (selectSession .extended s)

/-- `DSC.other`: NRC 0x12, nothing written (R181). -/
def execDscOther (_subFn : Byte) (_rest : List Byte) (s : State) : Outcome :=
  execNeg Config.sidDsc .subFunctionNotSupported s

/-- `Handler[0x10](p)` by the sub-function byte `p[0]` (R180, R181). -/
def handler10 (sf : Byte) (rest : List Byte) (s : State) : Outcome :=
  if sf = 0x01 then execDsc01 rest s
  else if sf = 0x02 then execDsc02 rest s
  else execDscOther sf rest s

end Sys2Proof.Machine
end

