-- ==== Sys2Proof/Machine/DispatchMessage.lean ====
section
/-! DEFINITION. `Dispatch(m)` (42_engine_dispatch.md R150): validation in the spec's order, then the handler of the
service. It follows R150's own text and not the decoder's table; that the two agree is a theorem. -/

namespace Sys2Proof.Machine

/-- `Dispatch(m)` of a non-empty message with first byte `sid` and sub-message `p` (R150, R152 to R155). -/
def dispatchRequest (sid : Byte) (p : List Byte) (s : State) : Outcome :=
  if 0x80 ≤ sid then execIgnored80FF (sid.extractLsb' 0 7) p s
  else if Config.sidReqMax < sid then execIgnored407F (sid.extractLsb' 0 6) p s
  else if !supportedSid sid then execUnsupported sid p s
  else
    match p with
    | [] =>
      if sid = Config.sidDsc then execShortDsc s
      else if sid = Config.sidRmba then execShortRmba s
      else execShortSa s
    | sf :: rest =>
      if sid = Config.sidDsc then handler10 sf rest s
      else if sid = Config.sidRmba then handler23 sf rest s
      else handler27 sf rest s

/-- `Dispatch(m)` (R150, R151). -/
def dispatchMessage (m : List Byte) (s : State) : Outcome :=
  match m with
  | [] => execEmpty s
  | sid :: p => dispatchRequest sid p s

end Sys2Proof.Machine
end

