-- ==== Sys2Proof/Machine/FramerRead.lean ====
section
/-! DEFINITION. The receive path (41_framer_read.md): leading frames, reassembly, and the delivery of a message to the
engine inside the same step (00_scope.md R16). -/

namespace Sys2Proof.Machine

/-- `SF`: deliver the payload; `L` above 7 delivers the seven bytes present, padding is not examined (R122). -/
def execSf (l : Nibble) (data : Seven) (s : State) : Outcome := dispatchMessage (singlePayload l data) s

/-- The first six bytes of a message of declared length `len`: `rx_size`, `rx_buf`, `rx_len`, `rx_seq`, `phase` (R123). -/
def startReassembly (len : BitVec 12) (data : Six) (s : State) : State :=
  { s with rxSize := len, rxBuf := data.toList, rxLen := 6, rxSeq := Config.seqFirst, phase := .rxCf }

/-- `FF`: flow control first; then either the six bytes at once, untrimmed, or the start of a reassembly (R123, R124). -/
def execFf (len : BitVec 12) (data : Six) (s : State) : Outcome :=
  if messageComplete Config.ffData len then dispatchMessage data.toList (emit flowControlFrame s)
  else .next (startReassembly len data (emit flowControlFrame s))

/-- `CF.lead` (R128). -/
def execCfLead (_sn : Nibble) (_data : Seven) (s : State) : Outcome := .next (raiseTfault .leadType s)

/-- `FC.lead` (R128). -/
def execFcLead (_low : Nibble) (_rest : Seven) (s : State) : Outcome := .next (raiseTfault .leadType s)

/-- `RSV4-7.lead` (R76, R128). -/
def execRsv47Lead (_low : BitVec 6) (_rest : Seven) (s : State) : Outcome := .next (raiseTfault .leadType s)

/-- `RSV8-F.lead` (R76, R128). -/
def execRsv8FLead (_low : BitVec 7) (_rest : Seven) (s : State) : Outcome := .next (raiseTfault .leadType s)

/-- `rx_buf[0:rx_len]` with the seven new bytes behind it (R125, R28). -/
def rxAppended (data : Seven) (s : State) : List Byte := s.rxBuf.take s.rxLen.toNat ++ data.toList

/-- `rx_buf[rx_len : rx_len + 7] <- f[1:8]` (R125). -/
def appendData (data : Seven) (s : State) : State := { s with rxBuf := rxAppended data s }

/-- `rx_len <- n; rx_seq <- (rx_seq + 1) mod 16`, with the data appended (R125). -/
def extendReassembly (data : Seven) (s : State) : State :=
  { s with
    rxBuf := rxAppended data s, rxLen := BitVec.ofNat 13 (s.rxLen.toNat + Config.cfData), rxSeq := s.rxSeq + 1 }

/-- `CF` accepted: append all seven bytes; deliver once the declared size is reached, without trimming (R125, R130).
A frame with no room in the buffer stops the model (log 10). -/
def execCf (_sn : Nibble) (data : Seven) (s : State) : Outcome :=
  if Config.rxCap < s.rxLen.toNat + Config.cfData then .fault .rxBufferOverflow
  else if messageComplete (s.rxLen.toNat + Config.cfData) s.rxSize then
    dispatchMessage (rxAppended data s) (appendData data s)
  else .next (extendReassembly data s)

/-- `CF.mismatch`: the reassembly is abandoned, the frame lost (R126). -/
def execCfMismatch (_f : Frame) (s : State) : Outcome := .next (raiseTfault .cfSeq s)

end Sys2Proof.Machine
end

