-- ==== Sys2Proof/Machine/FramerWrite.lean ====
section
/-! DEFINITION. The transmit path (40_framer_write.md): the frames the block sends, and the frames it takes while it
waits for flow control. -/

namespace Sys2Proof.Machine

/-- `SF.tx` (R101). -/
def execSfTx (p : List Byte) (s : State) : Outcome := sendSingle p s

/-- `FF.tx` (R102). -/
def execFfTx (p : List Byte) (s : State) : Outcome := sendFirst p s

/-- `CF.tx`: one frame of the burst; no register is written (R104). -/
def execCfTx (sn : Nibble) (data : Seven) (s : State) : Outcome := .next (emit (consecutiveFrame sn data) s)

/-- `FC.tx` (R124). -/
def execFcTx (s : State) : Outcome := .next (emit flowControlFrame s)

/-- `FC` accepted: the whole remainder in one burst; the frame's other bytes are not examined (R103). -/
def execFc (_rest : Seven) (s : State) : Outcome := .next (toIdle (cfBurst s))

/-- `FC.mismatch`: the write is abandoned, the frame lost (R105). -/
def execFcMismatch (_f : Frame) (s : State) : Outcome := .next (raiseTfault .fcBad s)

end Sys2Proof.Machine
end

