-- ==== Sys2Proof/Machine/Dispatch.lean ====
section
/-! DEFINITION. The meaning of every instruction: one arm per constructor, each one direct call. -/

namespace Sys2Proof.Machine

def exec (i : Instr) (s : State) : Host.Outcome State Fault Refusal :=
  match i with
  -- received frames
  | .sf l data => Sys2Proof.Machine.execSf l data s
  | .ff len data => Sys2Proof.Machine.execFf len data s
  | .cfLead sn data => Sys2Proof.Machine.execCfLead sn data s
  | .fcLead low rest => Sys2Proof.Machine.execFcLead low rest s
  | .rsv47Lead low rest => Sys2Proof.Machine.execRsv47Lead low rest s
  | .rsv8FLead low rest => Sys2Proof.Machine.execRsv8FLead low rest s
  | .cf sn data => Sys2Proof.Machine.execCf sn data s
  | .cfMismatch f => Sys2Proof.Machine.execCfMismatch f s
  | .fc rest => Sys2Proof.Machine.execFc rest s
  | .fcMismatch f => Sys2Proof.Machine.execFcMismatch f s
  -- sent frames
  | .sfTx p => Sys2Proof.Machine.execSfTx p s
  | .ffTx p => Sys2Proof.Machine.execFfTx p s
  | .cfTx sn data => Sys2Proof.Machine.execCfTx sn data s
  | .fcTx => Sys2Proof.Machine.execFcTx s
  -- delivered requests
  | .empty => Sys2Proof.Machine.execEmpty s
  | .ignored80FF sid rest => Sys2Proof.Machine.execIgnored80FF sid rest s
  | .ignored407F sid rest => Sys2Proof.Machine.execIgnored407F sid rest s
  | .shortDsc => Sys2Proof.Machine.execShortDsc s
  | .shortRmba => Sys2Proof.Machine.execShortRmba s
  | .shortSa => Sys2Proof.Machine.execShortSa s
  | .dsc01 rest => Sys2Proof.Machine.execDsc01 rest s
  | .dsc02 rest => Sys2Proof.Machine.execDsc02 rest s
  | .dscOther subFn rest => Sys2Proof.Machine.execDscOther subFn rest s
  | .saSeed rest => Sys2Proof.Machine.execSaSeed rest s
  | .saKey key => Sys2Proof.Machine.execSaKey key s
  | .saOther subFn rest => Sys2Proof.Machine.execSaOther subFn rest s
  | .rmba addrSize sizeSize spans => Sys2Proof.Machine.execRmba addrSize sizeSize spans s
  | .unsupported sid rest => Sys2Proof.Machine.execUnsupported sid rest s
  -- sent responses
  | .posDsc subFn => Sys2Proof.Machine.execPosDsc subFn s
  | .posRmba data => Sys2Proof.Machine.execPosRmba data s
  | .posSaSeed => Sys2Proof.Machine.execPosSaSeed s
  | .posSaKey => Sys2Proof.Machine.execPosSaKey s
  | .neg sid nrc => Sys2Proof.Machine.execNeg sid nrc s

end Sys2Proof.Machine
end

