-- ==== Sys2Proof/Machine/Step.lean ====
section
/-! DEFINITION. One step: take the next receive event and do all that follows from it (00_scope.md R16). -/

namespace Sys2Proof.Machine

/-- `step(S, e)` with `e` the next event of the receive stream (R16, R57). With no event, and once closed, nothing
changes but that the outputs of the step are empty (R16, R236; log 6, log 7). -/
def step (s : State) : Host.Outcome State Fault Refusal :=
  match takeEvent s with
  | (.idle, t) => .next t
  | (.timeout, t) => .next (takeTimeout t)
  | (.closed, t) => .next (takeClosed t)
  | (.run i, t) => exec i t

/-- The frame that makes the next step run a table word's instruction: the frame itself, or a single frame that
delivers the message (log 13). -/
def fetchFrame (nbits w : Nat) : Frame :=
  if nbits = 64 then frameOfWord w else singleFrame (messageOfWord (nbits / 8) w)

/-- `s` waiting for a leading frame, with that frame the next event of the receive stream (log 12, log 13). -/
def State.withFetchWord (s : State) (nbits w : Nat) : State :=
  { s with phase := .rxIdle, inbox := .frame (fetchFrame nbits w) :: s.inbox }

end Sys2Proof.Machine
end

