-- ==== Sys2Proof/Machine/Script.lean ====
section
/-! DEFINITION. The script notation of 30_encoding.md R86 and R87: what a peer sends, as receive events. The requests
are written as messages and segmented as R100 to R104 segment them. -/

namespace Sys2Proof.Machine.Script

/-- The frames that carry `p` (R87: "exactly as rules R100 to R104 would segment it"). -/
def segment (p : List Byte) : List Frame :=
  if p.length ≤ Config.sfMax then [singleFrame p] else firstFrame p :: cfFrames p

/-- `> SF d1 .. dL` (R86). -/
def sf (d : List Byte) : Event := .frame (singleFrame d)

/-- `> FF len : d0 .. d5` (R86). -/
def ff (len : BitVec 12) (d : Six) : Event := .frame (frameOfSix (firstFrameByte0 len) (firstFrameByte1 len) d)

/-- `> CF sn : d0 .. dk` (R86). -/
def cf (sn : Nibble) (d : List Byte) : Event := .frame (consecutiveFrame sn (padSeven d))

/-- `> FC` (R86). -/
def fc : Event := .frame flowControlFrame

/-- `MSG b0 .. bn`: the frames of a whole message as events (R87). -/
def msg (m : List Byte) : List Event := (segment m).map .frame

/-- `DSC sf` (R87). -/
def dsc (sf : Byte) : List Byte := [Config.sidDsc, sf]

/-- `SEED` (R87). -/
def seedRequest : List Byte := [Config.sidSa, 0x01]

/-- `KEY k0 k1 k2 k3` (R87). -/
def keyRequest (k0 k1 k2 k3 : Byte) : List Byte := [Config.sidSa, 0x02, k0, k1, k2, k3]

/-- `RMBA a.s addr size` (R87): `a` big-endian address bytes, then `z` big-endian size bytes. -/
def readRequest (a z : Nibble) (addr size : Nat) : List Byte :=
  Config.sidRmba :: nibbles a z :: (messageOfWord a.toNat addr ++ messageOfWord z.toNat size)

end Sys2Proof.Machine.Script
end

