-- ==== Sys2Proof/Safety.lean ====
section
/-! DEFINITION. What claims are stated in: the invariant of the reachable states (10_state.md R24 to R30), the message a
step delivers (41_framer_read.md R129), the frames a run sends (20_memory.md R58, R61), and the moves of the privilege
state (60_exceptions.md R242). -/

namespace Sys2Proof.Safety

open Sys2Proof.Machine

/-- What holds in every state a run from reset reaches. -/
structure StateInv (s : State) : Prop where
  /-- R24: the lock leaves 0 only in session 2 -/
  privilege : s.lock ≠ .locked → s.session = .extended
  /-- R50: the image stands at MEM_BASE, one cell a byte -/
  memory : s.mem.wf = true
  /-- R25 to R28: `rx_len` is `6 + 7k`, below the declared size, the buffer holds as many bytes, and `rx_seq` counts -/
  reassembly : s.phase = .rxCf →
    s.rxBuf.length = s.rxLen.toNat ∧ 6 ≤ s.rxLen.toNat ∧ (s.rxLen.toNat - 6) % 7 = 0 ∧
    s.rxLen.toNat < s.rxSize.toNat ∧ s.rxSeq.toNat = ((s.rxLen.toNat - 6) / 7 + 1) % 16
  /-- R29, R30, R39: a response waits for flow control only after a successful read, in state (2, 2) -/
  transmission : s.phase = .txWaitFc →
    s.txBuf.length = s.txLen.toNat ∧ 7 < s.txLen.toNat ∧ s.session = .extended ∧ s.lock = .unlocked

/-- The number of consecutive frames a declared size takes: `ceil(max(size - 6, 0) / 7)` (R129). -/
def consecutiveCount (size : Nat) : Nat := (size - 6 + 6) / 7

/-- The message a step delivers to the engine, if it delivers one (R122, R123, R125). -/
def deliveredMessage (s : State) : Option (List Byte) :=
  match takeEvent s with
  | (.run (.sf l d), _) => some (singlePayload l d)
  | (.run (.ff len d), _) => if messageComplete Config.ffData len then some d.toList else none
  | (.run (.cf _ d), t) =>
    if messageComplete (t.rxLen.toNat + Config.cfData) t.rxSize then some (rxAppended d t) else none
  | _ => none

/-- The frames the first `k` steps send, in order (R58, R61). -/
def sentBy : Nat → State → List Frame
  | 0, _ => []
  | k + 1, s =>
    match step s with
    | .next t => t.out ++ sentBy k t
    | .fault _ => []
    | .refused _ => []

/-- One move of the privilege state by the delivered message of a successful request (R242): `DSC 01`, `DSC 02`, `SA 01`,
`SA 02`; bytes after the sub-function by the spec's own decision D11. -/
inductive PrivilegeMove : List Byte → Session × Lock → Session × Lock → Prop where
  | dsc01 (rest : List Byte) (p : Session × Lock) : PrivilegeMove (0x10 :: 0x01 :: rest) p (.default, .locked)
  | dsc02 (rest : List Byte) (p : Session × Lock) : PrivilegeMove (0x10 :: 0x02 :: rest) p (.extended, .locked)
  | seed (rest : List Byte) (l : Lock) :
      PrivilegeMove (0x27 :: 0x01 :: rest) (.extended, l) (.extended, .seedIssued)
  | key (k0 k1 k2 : Byte) :
      PrivilegeMove [0x27, 0x02, k0, k1, k2, 0x85] (.extended, .seedIssued) (.extended, .unlocked)

/-- The requests and responses of the table, the engine's instructions (R9, level 2). -/
def isMessage : Instr → Bool
  | .sf _ _ | .ff _ _ | .cfLead _ _ | .fcLead _ _ | .rsv47Lead _ _ | .rsv8FLead _ _ | .cf _ _ | .cfMismatch _
  | .fc _ | .fcMismatch _ | .sfTx _ | .ffTx _ | .cfTx _ _ | .fcTx => false
  | .empty | .ignored80FF _ _ | .ignored407F _ _ | .shortDsc | .shortRmba | .shortSa | .dsc01 _ | .dsc02 _
  | .dscOther _ _ | .saSeed _ | .saKey _ | .saOther _ _ | .rmba _ _ _ | .unsupported _ _
  | .posDsc _ | .posRmba _ | .posSaSeed | .posSaKey | .neg _ _ => true

end Sys2Proof.Safety
end

