-- ==== Sys2Proof/Certificates/Slice0/Obligations.lean ====
section
/-! DEFINITION. The statements for the provers. Each docstring names the rule of spec/ it comes from; where a clause rests
on the model's own choice, the docstring names the log entry, and where it rests on a decision of the spec itself, the D
number of 92_eei_decisions.md. A statement that says nothing else changed follows the 'State written' lists of the rules;
for a transfer register outside its phase, where R20 gives it no value, that it keeps its bits is log 9. -/

open Sys2Proof Sys2Proof.Machine Sys2Proof.Safety

/-! ## Reset and the NRC table -/

/-- 10_state.md R37, with the spec's own decision D4 for session and lock; the image is the parameter of `resetWith`, and
`State.reset` is reset with the empty image (log 3). -/
def Obligations.ResetIsIdleAndLocked : Prop :=
  (∀ fw : List Byte,
    (State.resetWith fw).phase = .rxIdle ∧ (State.resetWith fw).session = .none ∧
    (State.resetWith fw).lock = .locked ∧ (State.resetWith fw).tfault = none ∧
    (State.resetWith fw).mem.image = fw ∧ (State.resetWith fw).mem.fwLen = fw.length ∧
    ∀ a, (State.resetWith fw).mem.readByte a = if 0x1000 ≤ a then fw[a - 0x1000]? else none) ∧
  State.reset = State.resetWith []

/-- 10_state.md R33: the nine rows, and the table is a bijection between its names and codes. -/
def Obligations.NrcTableIsABijection : Prop :=
  nrcCode .serviceNotSupported = 0x11 ∧ nrcCode .subFunctionNotSupported = 0x12 ∧
  nrcCode .incorrectMessageLengthOrInvalidFormat = 0x13 ∧ nrcCode .requestSequenceError = 0x24 ∧
  nrcCode .requestOutOfRange = 0x31 ∧ nrcCode .securityAccessDenied = 0x33 ∧ nrcCode .invalidKey = 0x35 ∧
  nrcCode .subFunctionNotSupportedInActiveSession = 0x7E ∧ nrcCode .serviceNotSupportedInActiveSession = 0x7F ∧
  ∀ n c, nrcName c = some n ↔ nrcCode n = c

/-! ## Encoding -/

/-- 30_encoding.md R77, R79: what is encoded decodes to itself, in every context that admits the instruction. That a sent
first frame is read beside the payload being sent, which is its operand, is the model's choice (log 14). -/
def Obligations.DecodeOfEncodeIsTheInstruction : Prop :=
  ∀ c i, wellFormed i = true → admits c i = true → decode c (encode i) = .ok i

/-- 30_encoding.md R77, R79: whatever decodes is the encoding of what it decodes to, so no bit is dropped, and the
instruction is well formed and of that context. A sent first frame decodes beside the payload being sent alone, its length
and data being that payload's: the model's choice (log 14). -/
def Obligations.EncodeOfDecodeIsTheBytes : Prop :=
  ∀ c bytes i, decode c bytes = .ok i → encode i = bytes ∧ wellFormed i = true ∧ admits c i = true

/-- 30_encoding.md R88: for everything the block receives, in each of the four formats, the decode is the first row, in
the table's order, whose masked word matches and whose length condition and dynamic test hold. -/
def Obligations.DecodeIsTheFirstMatchingRow : Prop :=
  (∀ f, firstRow .rxIdle (frameWord f) 8 = some (tableRow (decodeLead f))) ∧
  (∀ seq f, firstRow (.rxCf seq) (frameWord f) 8 = some (tableRow (decodeCf seq f))) ∧
  (∀ f, firstRow .txWaitFc (frameWord f) 8 = some (tableRow (decodeFc f))) ∧
  (∀ m, firstRow .req (messageWord m) m.length = some (tableRow (decodeReq m)))

/-- 30_encoding.md R77: the table of the frame decode by phase; in CLOSED no frame is taken. -/
def Obligations.FramesDecodeByPhase : Prop :=
  ∀ s f,
    (s.phase = .rxIdle → hi f.b0 = 0 → frameStimulus s f = .run (.sf (lo f.b0) f.rest)) ∧
    (s.phase = .rxIdle → hi f.b0 = 1 →
      frameStimulus s f = .run (.ff (firstFrameLen f.b0 f.rest.b1) (sixOf f.rest))) ∧
    (s.phase = .rxIdle → hi f.b0 = 2 → frameStimulus s f = .run (.cfLead (lo f.b0) f.rest)) ∧
    (s.phase = .rxIdle → hi f.b0 = 3 → frameStimulus s f = .run (.fcLead (lo f.b0) f.rest)) ∧
    (s.phase = .rxIdle → 4 ≤ (hi f.b0).toNat → (hi f.b0).toNat ≤ 7 →
      frameStimulus s f = .run (.rsv47Lead (f.b0.extractLsb' 0 6) f.rest)) ∧
    (s.phase = .rxIdle → 8 ≤ (hi f.b0).toNat →
      frameStimulus s f = .run (.rsv8FLead (f.b0.extractLsb' 0 7) f.rest)) ∧
    (s.phase = .rxCf → f.b0 = 0x20#8 + s.rxSeq.setWidth 8 → frameStimulus s f = .run (.cf s.rxSeq f.rest)) ∧
    (s.phase = .rxCf → f.b0 ≠ 0x20#8 + s.rxSeq.setWidth 8 → frameStimulus s f = .run (.cfMismatch f)) ∧
    (s.phase = .txWaitFc → f.b0 = 0x30 → frameStimulus s f = .run (.fc f.rest)) ∧
    (s.phase = .txWaitFc → f.b0 ≠ 0x30 → frameStimulus s f = .run (.fcMismatch f)) ∧
    (s.phase = .closed → takeEvent s = (.idle, { s with out := [], tfault := none }))

/-- Words written out from 30_encoding.md R72 to R75, R80 to R83, one or more of each family. Seven of them are read by
decodeTableWord, whose choice of format by the width of the word is the model's (log 12); the sent single frame is read
beside the payload being sent (log 14). -/
def Obligations.SampleWordsDecode : Prop :=
  decodeTableWord 64 0x02100200000000AA = some (.sf 2 ⟨0x10, 0x02, 0, 0, 0, 0, 0xAA⟩) ∧
  decodeTableWord 64 0x100D234700001000 = some (.ff 13 ⟨0x23, 0x47, 0, 0, 0x10, 0⟩) ∧
  decodeTableWord 64 0x2100000000000002 = some (.cfLead 1 ⟨0, 0, 0, 0, 0, 0, 2⟩) ∧
  decodeTableWord 16 0x1002 = some (.dsc02 []) ∧
  decodeTableWord 16 0x2701 = some (.saSeed []) ∧
  decodeTableWord 16 0x2322 = some (.rmba 2 2 []) ∧
  decodeTableWord 16 0x3E00 = some (.unsupported 0x3E [0]) ∧
  decode (.rxCf 15) [0x2F, 1, 2, 3, 4, 5, 6, 7] = .ok (.cf 15 ⟨1, 2, 3, 4, 5, 6, 7⟩) ∧
  decode .txWaitFc [0x30, 8, 0x7F, 0, 0, 0, 0, 0] = .ok (.fc ⟨8, 0x7F, 0, 0, 0, 0, 0⟩) ∧
  decode (.tx [0x50, 0x02]) [0x02, 0x50, 0x02, 0, 0, 0, 0, 0] = .ok (.sfTx [0x50, 0x02]) ∧
  decode .rsp [0x7F, 0x23, 0x13] = .ok (.neg 0x23 .incorrectMessageLengthOrInvalidFormat)

/-! ## Sending -/

/-- 40_framer_write.md R101. -/
def Obligations.SingleFrameIsSent : Prop :=
  ∀ p s, p.length ≤ 7 →
    exec (.sfTx p) s =
      .next { s with phase := .rxIdle, out := s.out ++ [pad8 (BitVec.ofNat 8 p.length :: p)] }

/-- 40_framer_write.md R102. -/
def Obligations.FirstFrameIsSentAndHeld : Prop :=
  ∀ p s, 8 ≤ p.length → p.length ≤ 4095 →
    exec (.ffTx p) s =
      .next { s with
        phase := .txWaitFc, txBuf := p, txLen := BitVec.ofNat 12 p.length,
        out := s.out ++
          [pad8 ((0x10#8 ||| BitVec.ofNat 8 (p.length >>> 8)) :: BitVec.ofNat 8 (p.length % 256) :: p.take 6)] }

/-- 40_framer_write.md R100: the split is on the length alone. -/
def Obligations.WriteSplitsOnLength : Prop :=
  ∀ p s, p.length ≤ 4095 →
    (p.length ≤ 7 → write p s = exec (.sfTx p) s) ∧
    (7 < p.length → write p s = exec (.ffTx p) s) ∧
    ∃ t, write p s = .next t

/-- R108 with the spec's own decision D15 (log 11): a payload no first frame can declare is refused. -/
def Obligations.WriteOfMoreThan4095BytesIsRefused : Prop :=
  ∀ p s, 4095 < p.length → write p s = .refused (.payloadLength p.length) ∧
    exec (.ffTx p) s = .refused (.payloadLength p.length)

/-- One consecutive frame of the burst of R104, and the constant frame of 41_framer_read.md R124: nothing but the send
stream is touched. -/
def Obligations.LinkFramesAreSent : Prop :=
  (∀ sn d s, exec (.cfTx sn d) s = .next { s with out := s.out ++ [⟨0x20#8 + sn.setWidth 8, d⟩] }) ∧
  ∀ s, exec .fcTx s = .next { s with out := s.out ++ [⟨0x30, ⟨0, 0, 0, 0, 0, 0, 0⟩⟩] }

/-- 40_framer_write.md R103, R104, in one step by the spec's own decision D18: the burst is `ceil((tx_len - 6) / 7)`
frames, the k-th (from 1) with sequence byte `0x20 + (k mod 16)` and the next seven bytes, zeros after the last. -/
def Obligations.FlowControlReleasesTheWholeBurst : Prop :=
  ∀ rest s, s.txBuf.length = s.txLen.toNat →
    exec (.fc rest) s =
      .next { s with
        phase := .rxIdle,
        out := s.out ++ (List.range (consecutiveCount s.txLen.toNat)).map fun j =>
          pad8 ((0x20#8 + BitVec.ofNat 8 ((j + 1) % 16)) :: (s.txBuf.drop (6 + 7 * j)).take 7) }

/-- 40_framer_write.md R103: a frame whose byte 0 is 0x30 is accepted whatever its other bytes; that tx_buf and tx_len
keep their bytes afterwards is the model's choice (log 9). -/
def Obligations.FlowControlIsAcceptedByItsFirstByte : Prop :=
  ∀ s f q, s.phase = .txWaitFc → s.inbox = .frame f :: q → f.b0 = 0x30 →
    step s =
      .next { s with
        inbox := q, tfault := none, phase := .rxIdle, out := cfFrames (s.txBuf.take s.txLen.toNat) }

/-- 41_framer_read.md R124: sent once per first frame taken in RX_IDLE, first in the step, and at no other time. -/
def Obligations.FlowControlIsSentOncePerFirstFrame : Prop :=
  ∀ s t, step s = .next t →
    ((∃ f q, s.phase = .rxIdle ∧ s.inbox = .frame f :: q ∧ hi f.b0 = 1) →
      ∃ others, t.out = ⟨0x30, ⟨0, 0, 0, 0, 0, 0, 0⟩⟩ :: others ∧ ∀ g ∈ others, g.b0 ≠ 0x30) ∧
    ((¬ ∃ f q, s.phase = .rxIdle ∧ s.inbox = .frame f :: q ∧ hi f.b0 = 1) → ∀ g ∈ t.out, g.b0 ≠ 0x30)

/-! ## Transport faults and asynchronous events -/

/-- 41_framer_read.md R120, R127 and 40_framer_write.md R106: a timeout is invisible before a leading frame and abandons
the transfer in the other two waits (what its registers hold afterwards is open, R20; log 9). -/
def Obligations.TimeoutsByPhase : Prop :=
  ∀ s q, s.inbox = .timeout :: q →
    (s.phase = .rxIdle → step s = .next { s with inbox := q, out := [], tfault := none }) ∧
    (s.phase = .rxCf → ∃ t, step s = .next t ∧ t.phase = .rxIdle ∧ t.tfault = some .cfAbsent ∧ t.out = [] ∧ t.inbox = q ∧
      t.session = s.session ∧ t.lock = s.lock ∧ t.mem = s.mem) ∧
    (s.phase = .txWaitFc → ∃ t, step s = .next t ∧ t.phase = .rxIdle ∧ t.tfault = some .fcAbsent ∧ t.out = [] ∧ t.inbox = q ∧
      t.session = s.session ∧ t.lock = s.lock ∧ t.mem = s.mem)

/-- 41_framer_read.md R128, R76: the frame is dropped whatever it is, and the effect of the four forms. -/
def Obligations.InvalidLeadingFrameIsDropped : Prop :=
  (∀ s f q, s.phase = .rxIdle → s.inbox = .frame f :: q → 1 < (hi f.b0).toNat →
    step s = .next { s with inbox := q, out := [], tfault := some .leadType }) ∧
  ∀ s : State,
    (∀ sn d, exec (.cfLead sn d) s = .next { s with phase := .rxIdle, tfault := some .leadType }) ∧
    (∀ low d, exec (.fcLead low d) s = .next { s with phase := .rxIdle, tfault := some .leadType }) ∧
    (∀ low d, exec (.rsv47Lead low d) s = .next { s with phase := .rxIdle, tfault := some .leadType }) ∧
    (∀ low d, exec (.rsv8FLead low d) s = .next { s with phase := .rxIdle, tfault := some .leadType })

/-- 41_framer_read.md R126: the frame is consumed whatever it is, and the instruction's own effect. What the transfer
registers hold afterwards is open (R20; log 9), so nothing is said of them here. -/
def Obligations.SequenceMismatchAbandonsTheMessage : Prop :=
  (∀ s f q, s.phase = .rxCf → s.inbox = .frame f :: q → f.b0 ≠ 0x20#8 + s.rxSeq.setWidth 8 →
    ∃ t, step s = .next t ∧ t.phase = .rxIdle ∧ t.tfault = some .cfSeq ∧ t.out = [] ∧ t.inbox = q ∧
      t.session = s.session ∧ t.lock = s.lock ∧ t.mem = s.mem) ∧
  ∀ s f, ∃ t, exec (.cfMismatch f) s = .next t ∧ t.phase = .rxIdle ∧ t.tfault = some .cfSeq ∧ t.out = s.out ∧
    t.inbox = s.inbox ∧ t.session = s.session ∧ t.lock = s.lock ∧ t.mem = s.mem

/-- 40_framer_write.md R105: the frame is consumed whatever it is, and the instruction's own effect. What the transfer
registers hold afterwards is open (R20; log 9), so nothing is said of them here. -/
def Obligations.FlowControlMismatchAbandonsTheResponse : Prop :=
  (∀ s f q, s.phase = .txWaitFc → s.inbox = .frame f :: q → f.b0 ≠ 0x30 →
    ∃ t, step s = .next t ∧ t.phase = .rxIdle ∧ t.tfault = some .fcBad ∧ t.out = [] ∧ t.inbox = q ∧
      t.session = s.session ∧ t.lock = s.lock ∧ t.mem = s.mem) ∧
  ∀ s f, ∃ t, exec (.fcMismatch f) s = .next t ∧ t.phase = .rxIdle ∧ t.tfault = some .fcBad ∧ t.out = s.out ∧
    t.inbox = s.inbox ∧ t.session = s.session ∧ t.lock = s.lock ∧ t.mem = s.mem

/-- 60_exceptions.md R236 with the spec's own decision D8: closure is taken in any waiting phase, and CLOSED then takes
no event and emits nothing, for ever; that a step there is a next state is the model's choice (log 7). -/
def Obligations.ClosureIsAbsorbing : Prop :=
  (∀ s q, s.phase ≠ .closed → s.inbox = .closed :: q →
    step s = .next { s with inbox := q, out := [], tfault := none, phase := .closed }) ∧
  ∀ s k, s.phase = .closed →
    (∃ t, Host.Core.run Sys2Proof.core k s = .next t ∧ t.phase = .closed ∧ t.inbox = s.inbox ∧
      t.session = s.session ∧ t.lock = s.lock) ∧ sentBy k s = []

/-- 00_scope.md R16 ("between events nothing changes"), as the model has it: a step without an event is a next state
with empty outputs (log 6). -/
def Obligations.WithoutAnEventNothingChanges : Prop :=
  ∀ s : State, s.inbox = [] → step s = .next { s with out := [], tfault := none }

/-- 60_exceptions.md R232, R131 with the spec's own decision D14: a step that reports a transport fault takes exactly one
event off the receive stream, emits nothing and leaves the block in RX_IDLE, and touches nothing else: session, lock,
image and the six transfer registers stay (that a register which R20 then gives no value keeps its bits is the model's
choice, log 9). -/
def Obligations.TransportFaultsTouchNothingElse : Prop :=
  ∀ s t, step s = .next t → t.tfault ≠ none →
    ∃ e q, s.inbox = e :: q ∧ t = { s with inbox := q, out := [], tfault := t.tfault, phase := .rxIdle }

/-- 70_reset_and_hazards.md R262: no frame is sent but in a step that takes a frame. -/
def Obligations.NothingIsSentUnlessAFrameIsTaken : Prop :=
  ∀ s t, step s = .next t → t.out ≠ [] → s.phase ≠ .closed ∧ ∃ f q, s.inbox = .frame f :: q

/-! ## The engine -/

/-- 42_engine_dispatch.md R151 with the spec's own decision D9. -/
def Obligations.EmptyMessageIsDiscarded : Prop :=
  ∀ s, dispatchMessage [] s = .next { s with phase := .rxIdle } ∧ exec .empty s = .next { s with phase := .rxIdle }

/-- 42_engine_dispatch.md R152: every first byte 0x40 .. 0xFF, whatever follows. -/
def Obligations.NonRequestsAreDiscarded : Prop :=
  (∀ (sid : Byte) (p : List Byte) (s : State), 0x3F < sid → dispatchMessage (sid :: p) s = .next { s with phase := .rxIdle }) ∧
  (∀ low rest s, exec (.ignored80FF low rest) s = .next { s with phase := .rxIdle }) ∧
  (∀ low rest s, exec (.ignored407F low rest) s = .next { s with phase := .rxIdle })

/-- 42_engine_dispatch.md R153: whatever the length. -/
def Obligations.UnsupportedServiceAnswers11 : Prop :=
  ∀ (sid : Byte) (p : List Byte) (s : State), sid ≤ 0x3F → sid ≠ 0x10 → sid ≠ 0x23 → sid ≠ 0x27 →
    dispatchMessage (sid :: p) s =
      .next { s with phase := .rxIdle, out := s.out ++ [pad8 [0x03, 0x7F, sid, 0x11]] } ∧
    exec (.unsupported sid p) s =
      .next { s with phase := .rxIdle, out := s.out ++ [pad8 [0x03, 0x7F, sid, 0x11]] }

/-- 42_engine_dispatch.md R154. -/
def Obligations.OneByteRequestAnswers13 : Prop :=
  (∀ (sid : Byte) (s : State), sid = 0x10 ∨ sid = 0x23 ∨ sid = 0x27 →
    dispatchMessage [sid] s =
      .next { s with phase := .rxIdle, out := s.out ++ [pad8 [0x03, 0x7F, sid, 0x13]] }) ∧
  ∀ s,
    exec .shortDsc s = .next { s with phase := .rxIdle, out := s.out ++ [pad8 [0x03, 0x7F, 0x10, 0x13]] } ∧
    exec .shortRmba s = .next { s with phase := .rxIdle, out := s.out ++ [pad8 [0x03, 0x7F, 0x23, 0x13]] } ∧
    exec .shortSa s = .next { s with phase := .rxIdle, out := s.out ++ [pad8 [0x03, 0x7F, 0x27, 0x13]] }

/-- 42_engine_dispatch.md R158: the negative response is one single frame; session and lock stay. -/
def Obligations.NegativeResponseIsOneSingleFrame : Prop :=
  ∀ sid n s,
    respond sid (.negative n) s = exec (.neg sid n) s ∧
    exec (.neg sid n) s =
      .next { s with phase := .rxIdle, out := s.out ++ [pad8 [0x03, 0x7F, sid, nrcCode n]] }

/-- 42_engine_dispatch.md R157: the five positive responses as they go out, the read-memory response in both lengths. -/
def Obligations.PositiveResponsesAreWritten : Prop :=
  (∀ sid data s, respond sid (.positive data) s = write ((sid + 0x40) :: data) s) ∧
  (∀ sf s, exec (.posDsc sf) s = .next { s with phase := .rxIdle, out := s.out ++ [pad8 [0x02, 0x50, sf]] }) ∧
  (∀ s, exec .posSaSeed s =
    .next { s with phase := .rxIdle, out := s.out ++ [pad8 [0x06, 0x67, 0x01, 0x53, 0x5F, 0xA3, 0x85]] }) ∧
  (∀ s, exec .posSaKey s = .next { s with phase := .rxIdle, out := s.out ++ [pad8 [0x02, 0x67, 0x02]] }) ∧
  (∀ data s, data.length ≤ 6 →
    exec (.posRmba data) s =
      .next { s with phase := .rxIdle, out := s.out ++ [pad8 (BitVec.ofNat 8 (data.length + 1) :: 0x63 :: data)] }) ∧
  (∀ data s, 7 ≤ data.length → data.length ≤ 4094 →
    exec (.posRmba data) s =
      .next { s with
        phase := .txWaitFc, txBuf := 0x63 :: data, txLen := BitVec.ofNat 12 (data.length + 1),
        out := s.out ++
          [pad8 ((0x10#8 ||| BitVec.ofNat 8 ((data.length + 1) >>> 8)) :: BitVec.ofNat 8 ((data.length + 1) % 256) ::
            0x63 :: data.take 5)] })

/-- 42_engine_dispatch.md R150, R155 against 30_encoding.md R79: the engine's validation runs the instruction that the
decoder reads from the message. -/
def Obligations.DispatchRunsTheDecodedRequest : Prop :=
  ∀ m s i, decode .req m = .ok i → dispatchMessage m s = exec i s

/-- 42_engine_dispatch.md R160: every path through `Dispatch` and `Write` ends in RX_IDLE or TX_WAIT_FC. -/
def Obligations.DispatchAlwaysAnswers : Prop :=
  ∀ m s, ∃ t, dispatchMessage m s = .next t ∧
    (t.phase = .rxIdle ∨ (t.phase = .txWaitFc ∧ s.session = .extended ∧ s.lock = .unlocked))

/-! ## The services -/

/-- 43_service_session_control.md R180, R181: sub-functions 1 and 2 are allowed in every state and write both registers;
any other byte answers 0x12 and writes nothing else. That the bytes after the sub-function are not examined is R182, the
spec's own decision D11 (log 2). -/
def Obligations.SessionControlSelectsAndLocks : Prop :=
  (∀ rest s,
    exec (.dsc01 rest) s =
      .next { s with
        session := .default, lock := .locked, phase := .rxIdle, out := s.out ++ [pad8 [0x02, 0x50, 0x01]] } ∧
    exec (.dsc02 rest) s =
      .next { s with
        session := .extended, lock := .locked, phase := .rxIdle, out := s.out ++ [pad8 [0x02, 0x50, 0x02]] }) ∧
  ∀ (sf : Byte) (rest : List Byte) (s : State), sf ≠ 0x01 → sf ≠ 0x02 →
    dispatchMessage (0x10 :: sf :: rest) s =
      .next { s with phase := .rxIdle, out := s.out ++ [pad8 [0x03, 0x7F, 0x10, 0x12]] } ∧
    exec (.dscOther sf rest) s =
      .next { s with phase := .rxIdle, out := s.out ++ [pad8 [0x03, 0x7F, 0x10, 0x12]] }

/-- 44_service_security_access.md R191 (bytes after the sub-function by the spec's own decision D11): from every lock
state of session 2. -/
def Obligations.SeedRequestIssuesTheSeed : Prop :=
  ∀ rest s, s.session = .extended →
    exec (.saSeed rest) s =
      .next { s with
        lock := .seedIssued, phase := .rxIdle,
        out := s.out ++ [pad8 [0x06, 0x67, 0x01, 0x53, 0x5F, 0xA3, 0x85]] }

/-- 44_service_security_access.md R192: the right length and last byte unlock, whatever the other key bytes. -/
def Obligations.RightKeyUnlocks : Prop :=
  ∀ k0 k1 k2 s, s.session = .extended → s.lock = .seedIssued →
    exec (.saKey [k0, k1, k2, 0x85]) s =
      .next { s with lock := .unlocked, phase := .rxIdle, out := s.out ++ [pad8 [0x02, 0x67, 0x02]] }

/-- 44_service_security_access.md R190, R192 (state after a failure by the spec's own decision D21): the refusals of
security access in their order, nothing but the response written. -/
def Obligations.SecurityAccessRefusesInOrder : Prop :=
  (∀ rest s, s.session ≠ .extended →
    exec (.saSeed rest) s = .next { s with phase := .rxIdle, out := s.out ++ [pad8 [0x03, 0x7F, 0x27, 0x7E]] }) ∧
  (∀ key s, s.session ≠ .extended →
    exec (.saKey key) s = .next { s with phase := .rxIdle, out := s.out ++ [pad8 [0x03, 0x7F, 0x27, 0x7E]] }) ∧
  (∀ key s, s.session = .extended → s.lock ≠ .seedIssued →
    exec (.saKey key) s = .next { s with phase := .rxIdle, out := s.out ++ [pad8 [0x03, 0x7F, 0x27, 0x24]] }) ∧
  (∀ key s, s.session = .extended → s.lock = .seedIssued → key.length ≠ 4 →
    exec (.saKey key) s = .next { s with phase := .rxIdle, out := s.out ++ [pad8 [0x03, 0x7F, 0x27, 0x13]] }) ∧
  (∀ (k0 k1 k2 k3 : Byte) (s : State), s.session = .extended → s.lock = .seedIssued → k3 ≠ 0x85 →
    exec (.saKey [k0, k1, k2, k3]) s =
      .next { s with phase := .rxIdle, out := s.out ++ [pad8 [0x03, 0x7F, 0x27, 0x35]] })

/-- 44_service_security_access.md R193: in every session and lock state. -/
def Obligations.OtherSecuritySubFunctionAnswers12 : Prop :=
  ∀ (sf : Byte) (rest : List Byte) (s : State), sf ≠ 0x01 → sf ≠ 0x02 →
    dispatchMessage (0x27 :: sf :: rest) s =
      .next { s with phase := .rxIdle, out := s.out ++ [pad8 [0x03, 0x7F, 0x27, 0x12]] } ∧
    exec (.saOther sf rest) s =
      .next { s with phase := .rxIdle, out := s.out ++ [pad8 [0x03, 0x7F, 0x27, 0x12]] }

/-- 45_service_read_memory.md R210, R211: session, then lock, before any byte of the request is looked at; then the exact
length. -/
def Obligations.ReadMemoryRefusesInOrder : Prop :=
  ∀ a z spans s,
    (s.session ≠ .extended →
      exec (.rmba a z spans) s =
        .next { s with phase := .rxIdle, out := s.out ++ [pad8 [0x03, 0x7F, 0x23, 0x7F]] }) ∧
    (s.session = .extended → s.lock ≠ .unlocked →
      exec (.rmba a z spans) s =
        .next { s with phase := .rxIdle, out := s.out ++ [pad8 [0x03, 0x7F, 0x23, 0x33]] }) ∧
    (s.session = .extended → s.lock = .unlocked → spans.length ≠ a.toNat + z.toNat →
      exec (.rmba a z spans) s =
        .next { s with phase := .rxIdle, out := s.out ++ [pad8 [0x03, 0x7F, 0x23, 0x13]] })

/-- 45_service_read_memory.md R213 with the spec's own decisions D12, D13: the three comparisons on unbounded naturals. -/
def Obligations.ReadMemoryOutOfRangeAnswers31 : Prop :=
  ∀ (a z : Nibble) (spans : List Byte) (s : State), s.session = .extended → s.lock = .unlocked →
    spans.length = a.toNat + z.toNat →
    ¬ (be (spans.drop a.toNat) ≤ 0xFFE ∧ 0x1000 ≤ be (spans.take a.toNat) ∧
      be (spans.take a.toNat) + be (spans.drop a.toNat) ≤ 0x1000 + s.mem.fwLen) →
    exec (.rmba a z spans) s = .next { s with phase := .rxIdle, out := s.out ++ [pad8 [0x03, 0x7F, 0x23, 0x31]] }

/-- 45_service_read_memory.md R214, with R213's spec decisions D12, D13: the bytes at `addr` .. `addr + size - 1`, in a
single frame up to six of them, else behind a first frame that waits for flow control. -/
def Obligations.ReadMemoryReturnsTheFirmwareBytes : Prop :=
  ∀ (a z : Nibble) (spans : List Byte) (s : State) (addr size : Nat),
    s.session = .extended → s.lock = .unlocked → s.mem.wf = true →
    spans.length = a.toNat + z.toNat → addr = be (spans.take a.toNat) → size = be (spans.drop a.toNat) →
    size ≤ 0xFFE → 0x1000 ≤ addr → addr + size ≤ 0x1000 + s.mem.fwLen →
    ∃ data : List Byte, data.length = size ∧ (∀ i, i < size → s.mem.readByte (addr + i) = data[i]?) ∧
      (size ≤ 6 → exec (.rmba a z spans) s =
        .next { s with phase := .rxIdle, out := s.out ++ [pad8 (BitVec.ofNat 8 (size + 1) :: 0x63 :: data)] }) ∧
      (7 ≤ size → exec (.rmba a z spans) s =
        .next { s with
          phase := .txWaitFc, txBuf := 0x63 :: data, txLen := BitVec.ofNat 12 (size + 1),
          out := s.out ++
            [pad8 ((0x10#8 ||| BitVec.ofNat 8 ((size + 1) >>> 8)) :: BitVec.ofNat 8 ((size + 1) % 256) ::
              0x63 :: data.take 5)] })

/-! ## Receiving -/

/-- 41_framer_read.md R122 with the spec's own decision D6: the message is the first `min(L, 7)` bytes after byte 0, and
the request it decodes to runs and answers in the same step. -/
def Obligations.SingleFrameRunsItsRequest : Prop :=
  ∀ (l : Nibble) (d : Seven) (s : State), ∃ i t,
    decode .req (d.toList.take (min l.toNat 7)) = .ok i ∧ exec (.sf l d) s = exec i s ∧ exec (.sf l d) s = .next t

/-- 41_framer_read.md R123 with the spec's own decision D7: flow control first; above six declared bytes a reassembly
starts, else the six bytes are the message, untrimmed. -/
def Obligations.FirstFrameStartsOrDelivers : Prop :=
  ∀ (len : BitVec 12) (d : Six) (s : State),
    (6 < len.toNat →
      exec (.ff len d) s =
        .next { s with
          out := s.out ++ [pad8 [0x30]], rxSize := len, rxBuf := d.toList, rxLen := 6, rxSeq := 1, phase := .rxCf }) ∧
    (len.toNat ≤ 6 → ∃ i t, decode .req d.toList = .ok i ∧
      exec (.ff len d) s = exec i { s with out := s.out ++ [pad8 [0x30]] } ∧ exec (.ff len d) s = .next t)

/-- 41_framer_read.md R125: in RX_CF the expected frame, its seven bytes appended, extends the message or completes it,
and a completed message's request runs and answers in the same step. -/
def Obligations.ConsecutiveFrameExtendsOrDelivers : Prop :=
  (∀ s f q, s.phase = .rxCf → s.inbox = .frame f :: q → f.b0 = 0x20#8 + s.rxSeq.setWidth 8 →
    step s = exec (.cf s.rxSeq f.rest) { s with inbox := q, out := [], tfault := none }) ∧
  ∀ (sn : Nibble) (d : Seven) (s : State), s.rxBuf.length = s.rxLen.toNat → s.rxLen.toNat + 7 ≤ 4101 →
    (s.rxLen.toNat + 7 < s.rxSize.toNat →
      exec (.cf sn d) s =
        .next { s with
          rxBuf := s.rxBuf ++ d.toList, rxLen := BitVec.ofNat 13 (s.rxLen.toNat + 7),
          rxSeq := BitVec.ofNat 4 ((s.rxSeq.toNat + 1) % 16) }) ∧
    (s.rxSize.toNat ≤ s.rxLen.toNat + 7 → ∃ i t, decode .req (s.rxBuf ++ d.toList) = .ok i ∧
      exec (.cf sn d) s = exec i { s with rxBuf := s.rxBuf ++ d.toList } ∧ exec (.cf sn d) s = .next t)

/-- Log 10 (the spec gives an overflow of `rx_buf`, capacity 4101 by its own decision D5, no behaviour): a consecutive
frame with no room stops the model. -/
def Obligations.ReassemblyOverflowFaults : Prop :=
  ∀ sn d s, 4101 < s.rxLen.toNat + 7 → exec (.cf sn d) s = .fault .rxBufferOverflow

/-- 41_framer_read.md R129, R130: a first frame of declared size above 6 and its `ceil((size - 6) / 7)` consecutive
frames deliver all their data bytes, none trimmed; up to the last frame the block sends its flow control alone, and
session, lock and image are as before. -/
def Obligations.ReassemblyDeliversAllDataBytes : Prop :=
  ∀ (s : State) (len : BitVec 12) (d : Six) (ds : List Seven) (q : List Event),
    s.phase = .rxIdle → 6 < len.toNat → ds.length = consecutiveCount len.toNat →
    s.inbox = .frame (frameOfSix (firstFrameByte0 len) (firstFrameByte1 len) d) ::
      (ds.mapIdx fun j e => Event.frame ⟨0x20#8 + BitVec.ofNat 8 ((j + 1) % 16), e⟩) ++ q →
    sentBy ds.length s = [pad8 [0x30]] ∧
    ∃ u : State, u.session = s.session ∧ u.lock = s.lock ∧ u.mem = s.mem ∧ u.inbox = q ∧ u.out = [] ∧
      u.tfault = none ∧
      Host.Core.run Sys2Proof.core (ds.length + 1) s =
        dispatchMessage (d.toList ++ (ds.map Seven.toList).flatten) u

/-- 40_framer_write.md R109, 95_test_vectors.md E1: what `write` segments, `read` delivers, followed by the padding of
the last frame. -/
def Obligations.WriteThenReadRoundTrip : Prop :=
  ∀ (s : State) (p : List Byte) (q : List Event), s.phase = .rxIdle → p.length ≤ 4095 →
    s.inbox = Script.msg p ++ q →
    ∃ u : State, u.session = s.session ∧ u.lock = s.lock ∧ u.mem = s.mem ∧ u.inbox = q ∧ u.out = [] ∧
      u.tfault = none ∧
      Host.Core.run Sys2Proof.core (Script.msg p).length s =
        dispatchMessage
          (p ++ List.replicate (if p.length ≤ 7 then 0 else 6 + 7 * consecutiveCount p.length - p.length) 0) u

/-! ## The step -/

/-- 00_scope.md R16: when the next event is a frame whose bytes decode, in the context of the phase, to an instruction,
the step is that instruction's meaning, the event consumed and the step's outputs empty before it. -/
def Obligations.StepRunsTheDecodedFrame : Prop :=
  ∀ s f q c i, s.inbox = .frame f :: q → receiveContext s = some c → decode c f.bytes = .ok i →
    step s = exec i { s with inbox := q, out := [], tfault := none }

/-- The fetch of a table word is the model's own (log 12, log 13): the very next step runs the instruction the decoder
reads from the word. -/
def Obligations.FetchedWordRunsItsInstruction : Prop :=
  ∀ (s : State) (nbits w : Nat) (i : Instr), nbits ≤ 64 → decodeTableWord nbits w = some i →
    step (s.withFetchWord nbits w) = exec i { s with phase := .rxIdle, out := [], tfault := none }

/-! ## Frames -/

/-- The engine's instructions (requests and responses) leave alone what their rules do not write: the receive stream, the
reassembly registers, the tfault output, every firmware byte; session but for `DSC`; lock but for `DSC`, requestSeed and
sendKey; the transmit registers unless a first frame goes out; and the frames already sent. -/
def Obligations.MessageInstructionsFrame : Prop :=
  ∀ i s t, isMessage i = true → exec i s = .next t →
    t.inbox = s.inbox ∧ t.tfault = s.tfault ∧ t.rxSize = s.rxSize ∧ t.rxLen = s.rxLen ∧ t.rxSeq = s.rxSeq ∧
    t.rxBuf = s.rxBuf ∧ (∀ a, t.mem.readByte a = s.mem.readByte a) ∧ t.mem.fwLen = s.mem.fwLen ∧
    ((∀ r, i ≠ .dsc01 r) → (∀ r, i ≠ .dsc02 r) → t.session = s.session) ∧
    ((∀ r, i ≠ .dsc01 r) → (∀ r, i ≠ .dsc02 r) → (∀ r, i ≠ .saSeed r) → (∀ k, i ≠ .saKey k) → t.lock = s.lock) ∧
    (t.phase ≠ .txWaitFc → t.txLen = s.txLen ∧ t.txBuf = s.txBuf) ∧
    ∃ sent, t.out = s.out ++ sent ∧ sent.length ≤ 1

/-- The frames that deliver a message (`SF`, `FF`, `CF`) leave alone the receive stream, the tfault output and every
firmware byte; a single frame leaves the reassembly registers too, a consecutive frame the declared size; the transmit
registers stay unless a first frame goes out. -/
def Obligations.ReceivedDataFramesFrame : Prop :=
  ∀ s t,
    (∀ l d, exec (.sf l d) s = .next t →
      t.rxSize = s.rxSize ∧ t.rxLen = s.rxLen ∧ t.rxSeq = s.rxSeq ∧ t.rxBuf = s.rxBuf) ∧
    (∀ sn d, exec (.cf sn d) s = .next t → t.rxSize = s.rxSize) ∧
    (∀ i, ((∃ l d, i = .sf l d) ∨ (∃ len d, i = .ff len d) ∨ ∃ sn d, i = .cf sn d) → exec i s = .next t →
      t.inbox = s.inbox ∧ t.tfault = s.tfault ∧ (∀ a, t.mem.readByte a = s.mem.readByte a) ∧
      t.mem.fwLen = s.mem.fwLen ∧ (t.phase ≠ .txWaitFc → t.txLen = s.txLen ∧ t.txBuf = s.txBuf))

/-- The transport's other frames touch neither session nor lock nor the reassembly registers (which by R20 hold no value
outside RX_CF; that they keep their bits there is log 9) nor the receive stream nor any firmware byte; the transmit registers stay but for `FF.tx`, and tfault but for the frames that raise one. -/
def Obligations.TransportInstructionsFrame : Prop :=
  ∀ i s t,
    ((∃ p, i = .sfTx p) ∨ (∃ p, i = .ffTx p) ∨ (∃ sn d, i = .cfTx sn d) ∨ i = .fcTx ∨ (∃ r, i = .fc r) ∨
      (∃ f, i = .fcMismatch f) ∨ (∃ f, i = .cfMismatch f) ∨ (∃ sn d, i = .cfLead sn d) ∨ (∃ l d, i = .fcLead l d) ∨
      (∃ l d, i = .rsv47Lead l d) ∨ ∃ l d, i = .rsv8FLead l d) →
    exec i s = .next t →
    t.session = s.session ∧ t.lock = s.lock ∧ t.rxSize = s.rxSize ∧ t.rxLen = s.rxLen ∧ t.rxSeq = s.rxSeq ∧
    t.rxBuf = s.rxBuf ∧ t.inbox = s.inbox ∧ (∀ a, t.mem.readByte a = s.mem.readByte a) ∧
    t.mem.fwLen = s.mem.fwLen ∧ ((∀ p, i ≠ .ffTx p) → t.txLen = s.txLen ∧ t.txBuf = s.txBuf) ∧
    (((∃ p, i = .sfTx p) ∨ (∃ p, i = .ffTx p) ∨ (∃ sn d, i = .cfTx sn d) ∨ i = .fcTx ∨ ∃ r, i = .fc r) →
      t.tfault = s.tfault)

/-! ## Invariants and whole-machine rules -/

/-- The invariant holds after reset with any image. -/
def Obligations.InvariantHoldsAtReset : Prop := ∀ fw : List Byte, StateInv (State.resetWith fw)

/-- 10_state.md R24 to R30: every step keeps the invariant of the reachable states. -/
def Obligations.EveryStepKeepsTheInvariant : Prop := ∀ s t, StateInv s → step s = .next t → StateInv t

/-- 00_scope.md R17.5, 42_engine_dispatch.md R160: whatever the environment delivers, no run stops with a fault or a
refusal. That a step without an event (log 6) and a step in CLOSED (log 7), where the spec takes none, answer a next state
too is the model's choice. -/
def Obligations.NoRunStops : Prop :=
  ∀ s k, StateInv s → ∃ t, Host.Core.run Sys2Proof.core k s = .next t ∧ StateInv t

/-- 60_exceptions.md R242 (failures by the spec's own decision D21, bytes after the sub-function by D11): the privilege
state changes only in a step that delivers `10 01 ..`, `10 02 ..`, `27 01 ..` in session 2 or `27 02 k0 k1 k2 85` in state
(2, 1), and then as that request says. -/
def Obligations.PrivilegeChangesOnlyByTheFourMoves : Prop :=
  ∀ s t, step s = .next t → (t.session, t.lock) ≠ (s.session, s.lock) →
    ∃ m, deliveredMessage s = some m ∧ PrivilegeMove m (s.session, s.lock) (t.session, t.lock)

/-- 60_exceptions.md R240, R242: the block unlocks only in session 2 with a seed issued, on a delivered sendKey whose
last byte is 0x85. -/
def Obligations.UnlockingTakesTheKey : Prop :=
  ∀ s t, step s = .next t → s.lock ≠ .unlocked → t.lock = .unlocked →
    s.session = .extended ∧ s.lock = .seedIssued ∧
    ∃ k0 k1 k2, deliveredMessage s = some [0x27, 0x02, k0, k1, k2, 0x85]

/-- 20_memory.md R51: no instruction and no step writes the firmware space. -/
def Obligations.FirmwareIsNeverWritten : Prop :=
  (∀ i s t, exec i s = .next t → t.mem = s.mem ∧ ∀ a, t.mem.readByte a = s.mem.readByte a) ∧
  ∀ s t, step s = .next t → t.mem = s.mem ∧ ∀ a, t.mem.readByte a = s.mem.readByte a

/-- 60_exceptions.md R241: outside state (2, 2) a step does the same whatever the firmware image is, so nothing it sends
tells the peer anything of it. -/
def Obligations.LockedBlockRevealsNoFirmware : Prop :=
  ∀ s t m, ¬ (s.session = .extended ∧ s.lock = .unlocked) → step s = .next t →
    step { s with mem := m } = .next { t with mem := m }

/-- 10_state.md R39: TX_WAIT_FC is entered only from state (2, 2), with a positive read-memory response of 8 bytes or
more held. -/
def Obligations.OnlyALongReadWaitsForFlowControl : Prop :=
  ∀ s t, step s = .next t → s.phase ≠ .txWaitFc → t.phase = .txWaitFc →
    s.session = .extended ∧ s.lock = .unlocked ∧ t.txBuf.length = t.txLen.toNat ∧
    ∃ data, t.txBuf = 0x63 :: data ∧ 7 ≤ data.length

/-- 30_encoding.md R76, 40_framer_write.md R109: the block never sends a frame of type nibble 4 to 15. -/
def Obligations.SentFramesAreOfTheFourTypes : Prop :=
  ∀ s t, step s = .next t → ∀ f ∈ t.out, (hi f.b0).toNat ≤ 3

/-! ## The table's rows for what the block sends -/

/-- 30_encoding.md R88 for the formats FRAME64/TX and MSG16/RSP: whatever decodes has as its row the first that matches;
and where a row matches and its fields hold what the table says the block sends there (R72, R73, R83: zero padding, a
declared length of 8 or more, the listed sub-functions, seed, identifiers and codes) the bytes decode, a first frame beside
the payload being sent (log 14). -/
def Obligations.SentBytesDecodeByTheirRow : Prop :=
  (∀ p f i, decode (.tx p) f.bytes = .ok i → firstRow (.tx p) (frameWord f) 8 = some (tableRow i)) ∧
  (∀ p f r, firstRow (.tx p) (frameWord f) 8 = some r →
    (hi f.b0 = 0 → ∀ j, (lo f.b0).toNat ≤ j → j < 7 → f.rest.toList[j]? = some 0) →
    (hi f.b0 = 1 → p.length = (lo f.b0).toNat * 256 + f.rest.b1.toNat ∧ 8 ≤ p.length ∧ p.take 6 = (sixOf f.rest).toList) →
    ∃ i, decode (.tx p) f.bytes = .ok i ∧ tableRow i = r) ∧
  (∀ m i, decode .rsp m = .ok i → firstRow .rsp (messageWord m) m.length = some (tableRow i)) ∧
  (∀ m r, firstRow .rsp (messageWord m) m.length = some r →
    (m[0]? = some 0x50 → m[1]? = some 0x01 ∨ m[1]? = some 0x02) →
    (m.take 2 = [0x67, 0x01] → m.drop 1 = [0x01, 0x53, 0x5F, 0xA3, 0x85]) →
    (m[0]? = some 0x7F → ∃ sid code n, m = [0x7F, sid, code] ∧ sid ≤ 0x3F ∧ nrcName code = some n) →
    ∃ i, decode .rsp m = .ok i ∧ tableRow i = r)
end

