-- ==== Sys2Proof/Laws/Decode.lean ====
section
/-! SUPPORT. The small laws of the bit-field helpers (00_scope.md R13): a field put into a byte comes out of it, and the
bytes of the fixed groups are read back. -/

namespace Sys2Proof

@[simp] theorem hi_nibbles : ∀ h l : Nibble, hi (nibbles h l) = h := by decide

@[simp] theorem lo_nibbles : ∀ h l : Nibble, lo (nibbles h l) = l := by decide

@[simp] theorem nibbles_hi_lo : ∀ b : Byte, nibbles (hi b) (lo b) = b := by decide

/-- `hi(b)` is `b >> 4` and `lo(b)` is `b & 0x0F` (R13). -/
theorem hi_lo_toNat : ∀ b : Byte, (hi b).toNat = b.toNat / 16 ∧ (lo b).toNat = b.toNat % 16 := by decide

/-- `[0x20 + sn]`: the byte of a consecutive frame (R74). -/
theorem nibbles_two : ∀ sn : Nibble, nibbles 2 sn = 0x20#8 + sn.setWidth 8 := by decide

/-- `LEN = lo(f[0]) * 256 + f[1]` (R73, R123). -/
theorem firstFrameLen_toNat (b0 b1 : Byte) : (firstFrameLen b0 b1).toNat = (lo b0).toNat * 256 + b1.toNat := by
  rw [firstFrameLen, BitVec.toNat_append, Nat.shiftLeft_eq, Nat.mul_comm, ← Nat.two_pow_add_eq_or_of_lt b1.isLt,
    Nat.mul_comm]

theorem firstFrameByte0_eq (len : BitVec 12) : firstFrameByte0 len = nibbles 1 (len.extractLsb' 8 4) := rfl

@[simp] theorem hi_firstFrameByte0 (len : BitVec 12) : hi (firstFrameByte0 len) = 1 := by simp [firstFrameByte0]

@[simp] theorem firstFrameLen_bytes (len : BitVec 12) : firstFrameLen (firstFrameByte0 len) (firstFrameByte1 len) = len := by
  apply BitVec.eq_of_toNat_eq
  rw [firstFrameLen_toNat, firstFrameByte0_eq, lo_nibbles]
  simp only [firstFrameByte1, BitVec.extractLsb'_toNat, Nat.shiftRight_eq_div_pow]
  have := len.isLt
  omega

/-- The two header bytes of a first frame are determined by its declared length (R73). -/
theorem firstFrameBytes_len (b0 b1 : Byte) (h : hi b0 = 1) :
    firstFrameByte0 (firstFrameLen b0 b1) = b0 ∧ firstFrameByte1 (firstFrameLen b0 b1) = b1 := by
  have hn := firstFrameLen_toNat b0 b1
  have h0 : (firstFrameLen b0 b1).extractLsb' 8 4 = lo b0 := by
    apply BitVec.eq_of_toNat_eq
    simp only [BitVec.extractLsb'_toNat, Nat.shiftRight_eq_div_pow, hn]
    have := b1.isLt; have := (lo b0).isLt
    omega
  have h1 : firstFrameByte1 (firstFrameLen b0 b1) = b1 := by
    apply BitVec.eq_of_toNat_eq
    simp only [firstFrameByte1, BitVec.extractLsb'_toNat, Nat.shiftRight_eq_div_pow, hn]
    have := b1.isLt
    omega
  refine ⟨?_, h1⟩
  rw [firstFrameByte0_eq, h0, ← h, nibbles_hi_lo]

@[simp] theorem sevenOf_toList (d : Seven) : sevenOf? d.toList = some d := rfl

theorem toList_of_sevenOf {l : List Byte} {d : Seven} (h : sevenOf? l = some d) : d.toList = l := by
  unfold sevenOf? at h
  split at h
  · injection h with h; subst h; rfl
  · cases h

@[simp] theorem frameOf_bytes (f : Frame) : frameOf? f.bytes = some f := rfl

theorem bytes_of_frameOf {l : List Byte} {f : Frame} (h : frameOf? l = some f) : f.bytes = l := by
  cases l with
  | nil => cases h
  | cons b s =>
    simp only [frameOf?, Option.map_eq_some_iff] at h
    obtain ⟨d, hd, rfl⟩ := h
    simp [Frame.bytes, toList_of_sevenOf hd]

@[simp] theorem length_sevenToList (d : Seven) : d.toList.length = 7 := rfl

@[simp] theorem length_sixToList (d : Six) : d.toList.length = 6 := rfl

@[simp] theorem padSeven_toList (d : Seven) : padSeven d.toList = d := rfl

/-- Padding is zeros up to seven bytes (R14). -/
theorem toList_padSeven (l : List Byte) (h : l.length ≤ 7) :
    (padSeven l).toList = l ++ List.replicate (7 - l.length) 0 := by
  match l, h with
  | [], _ => rfl
  | [_], _ => rfl
  | [_, _], _ => rfl
  | [_, _, _], _ => rfl
  | [_, _, _, _], _ => rfl
  | [_, _, _, _, _], _ => rfl
  | [_, _, _, _, _, _], _ => rfl
  | [_, _, _, _, _, _, _], _ => rfl
  | _ :: _ :: _ :: _ :: _ :: _ :: _ :: _ :: _, h => simp only [List.length_cons] at h; omega

/-- `pad8(s)` is `s` and zeros up to eight bytes (R14). -/
theorem bytes_pad8 (b : Byte) (s : List Byte) (h : s.length ≤ 7) :
    (pad8 (b :: s)).bytes = b :: s ++ List.replicate (7 - s.length) 0 := by
  simp [pad8, Frame.bytes, toList_padSeven s h]

/-- `be(s ++ [b]) = be(s) * 256 + b` (R14). -/
theorem be_append (s : List Byte) (b : Byte) : be (s ++ [b]) = be s * 256 + b.toNat := by simp [be]

/-- The empty span decodes to 0 (R14, D12). -/
@[simp] theorem be_nil : be [] = 0 := rfl

@[simp] theorem nrcName_nrcCode (n : Nrc) : nrcName (nrcCode n) = some n := by cases n <;> rfl

end Sys2Proof
end

