-- ==== Sys2Proof/Laws/Flags.lean ====
section
/-! SUPPORT. What each tested condition says, so that no later proof unfolds one. -/

namespace Sys2Proof.Machine

@[simp] theorem inExtendedSession_iff (s : State) : inExtendedSession s = true ↔ s.session = .extended := by
  simp [inExtendedSession]

@[simp] theorem seedIsIssued_iff (s : State) : seedIsIssued s = true ↔ s.lock = .seedIssued := by simp [seedIsIssued]

@[simp] theorem isUnlocked_iff (s : State) : isUnlocked s = true ↔ s.lock = .unlocked := by simp [isUnlocked]

/-- sendKey's sub-message is 5 bytes: four after the sub-function (R192). -/
@[simp] theorem keyLengthOk_iff (key : List Byte) : keyLengthOk key = true ↔ key.length = 4 := by simp [keyLengthOk]

@[simp] theorem keyOk_iff (key : List Byte) : keyOk key = true ↔ key.getD 3 0 = 0x85 := by simp [keyOk, lastKeyByte]

@[simp] theorem spansLengthOk_iff (a z : Nibble) (spans : List Byte) :
    spansLengthOk a z spans = true ↔ spans.length = a.toNat + z.toNat := by
  simp only [spansLengthOk, beq_iff_eq]; omega

@[simp] theorem rangeOk_iff (fwLen addr size : Nat) :
    rangeOk fwLen addr size = true ↔ size ≤ 0xFFE ∧ 0x1000 ≤ addr ∧ addr + size ≤ 0x1000 + fwLen := decide_eq_true_iff

@[simp] theorem messageComplete_iff (n : Nat) (len : BitVec 12) : messageComplete n len = true ↔ len.toNat ≤ n :=
  decide_eq_true_iff

@[simp] theorem inExtendedSession_false (s : State) : inExtendedSession s = false ↔ s.session ≠ .extended := by
  rw [← Bool.not_eq_true, inExtendedSession_iff]

@[simp] theorem seedIsIssued_false (s : State) : seedIsIssued s = false ↔ s.lock ≠ .seedIssued := by
  rw [← Bool.not_eq_true, seedIsIssued_iff]

@[simp] theorem isUnlocked_false (s : State) : isUnlocked s = false ↔ s.lock ≠ .unlocked := by
  rw [← Bool.not_eq_true, isUnlocked_iff]

@[simp] theorem keyLengthOk_false (key : List Byte) : keyLengthOk key = false ↔ key.length ≠ 4 := by
  rw [← Bool.not_eq_true, keyLengthOk_iff]

@[simp] theorem keyOk_false (key : List Byte) : keyOk key = false ↔ key.getD 3 0 ≠ 0x85 := by
  rw [← Bool.not_eq_true, keyOk_iff]

@[simp] theorem spansLengthOk_false (a z : Nibble) (spans : List Byte) :
    spansLengthOk a z spans = false ↔ spans.length ≠ a.toNat + z.toNat := by
  rw [← Bool.not_eq_true, spansLengthOk_iff]

/-- When the request's length is right, its size span is all that follows the address span (R212). -/
theorem rmbaSize_eq (a z : Nibble) (spans : List Byte) (h : spans.length = a.toNat + z.toNat) :
    rmbaSize a z spans = be (spans.drop a.toNat) := by
  rw [rmbaSize, List.take_of_length_le (by rw [List.length_drop]; omega)]

end Sys2Proof.Machine
end

