-- ==== Sys2Proof/Laws/State.lean ====
section
/-! SUPPORT. One lemma per field and named update of State: what the update writes, and that it leaves every other field
alone. Tagged simp, so that no later proof unfolds a record update. -/

namespace Sys2Proof.Machine

/-! ### emit -/

@[simp] theorem emit_phase (f : Frame) (s : State) : (emit f s).phase = s.phase := rfl
@[simp] theorem emit_session (f : Frame) (s : State) : (emit f s).session = s.session := rfl
@[simp] theorem emit_lock (f : Frame) (s : State) : (emit f s).lock = s.lock := rfl
@[simp] theorem emit_rxSize (f : Frame) (s : State) : (emit f s).rxSize = s.rxSize := rfl
@[simp] theorem emit_rxLen (f : Frame) (s : State) : (emit f s).rxLen = s.rxLen := rfl
@[simp] theorem emit_rxSeq (f : Frame) (s : State) : (emit f s).rxSeq = s.rxSeq := rfl
@[simp] theorem emit_rxBuf (f : Frame) (s : State) : (emit f s).rxBuf = s.rxBuf := rfl
@[simp] theorem emit_txLen (f : Frame) (s : State) : (emit f s).txLen = s.txLen := rfl
@[simp] theorem emit_txBuf (f : Frame) (s : State) : (emit f s).txBuf = s.txBuf := rfl
@[simp] theorem emit_mem (f : Frame) (s : State) : (emit f s).mem = s.mem := rfl
@[simp] theorem emit_inbox (f : Frame) (s : State) : (emit f s).inbox = s.inbox := rfl
@[simp] theorem emit_out (f : Frame) (s : State) : (emit f s).out = s.out ++ [f] := rfl
@[simp] theorem emit_tfault (f : Frame) (s : State) : (emit f s).tfault = s.tfault := rfl

/-! ### raiseTfault -/

@[simp] theorem raiseTfault_phase (k : TFault) (s : State) : (raiseTfault k s).phase = .rxIdle := rfl
@[simp] theorem raiseTfault_session (k : TFault) (s : State) : (raiseTfault k s).session = s.session := rfl
@[simp] theorem raiseTfault_lock (k : TFault) (s : State) : (raiseTfault k s).lock = s.lock := rfl
@[simp] theorem raiseTfault_rxSize (k : TFault) (s : State) : (raiseTfault k s).rxSize = s.rxSize := rfl
@[simp] theorem raiseTfault_rxLen (k : TFault) (s : State) : (raiseTfault k s).rxLen = s.rxLen := rfl
@[simp] theorem raiseTfault_rxSeq (k : TFault) (s : State) : (raiseTfault k s).rxSeq = s.rxSeq := rfl
@[simp] theorem raiseTfault_rxBuf (k : TFault) (s : State) : (raiseTfault k s).rxBuf = s.rxBuf := rfl
@[simp] theorem raiseTfault_txLen (k : TFault) (s : State) : (raiseTfault k s).txLen = s.txLen := rfl
@[simp] theorem raiseTfault_txBuf (k : TFault) (s : State) : (raiseTfault k s).txBuf = s.txBuf := rfl
@[simp] theorem raiseTfault_mem (k : TFault) (s : State) : (raiseTfault k s).mem = s.mem := rfl
@[simp] theorem raiseTfault_inbox (k : TFault) (s : State) : (raiseTfault k s).inbox = s.inbox := rfl
@[simp] theorem raiseTfault_out (k : TFault) (s : State) : (raiseTfault k s).out = s.out := rfl
@[simp] theorem raiseTfault_tfault (k : TFault) (s : State) : (raiseTfault k s).tfault = some k := rfl

/-! ### toIdle -/

@[simp] theorem toIdle_phase (s : State) : (toIdle s).phase = .rxIdle := rfl
@[simp] theorem toIdle_session (s : State) : (toIdle s).session = s.session := rfl
@[simp] theorem toIdle_lock (s : State) : (toIdle s).lock = s.lock := rfl
@[simp] theorem toIdle_rxSize (s : State) : (toIdle s).rxSize = s.rxSize := rfl
@[simp] theorem toIdle_rxLen (s : State) : (toIdle s).rxLen = s.rxLen := rfl
@[simp] theorem toIdle_rxSeq (s : State) : (toIdle s).rxSeq = s.rxSeq := rfl
@[simp] theorem toIdle_rxBuf (s : State) : (toIdle s).rxBuf = s.rxBuf := rfl
@[simp] theorem toIdle_txLen (s : State) : (toIdle s).txLen = s.txLen := rfl
@[simp] theorem toIdle_txBuf (s : State) : (toIdle s).txBuf = s.txBuf := rfl
@[simp] theorem toIdle_mem (s : State) : (toIdle s).mem = s.mem := rfl
@[simp] theorem toIdle_inbox (s : State) : (toIdle s).inbox = s.inbox := rfl
@[simp] theorem toIdle_out (s : State) : (toIdle s).out = s.out := rfl
@[simp] theorem toIdle_tfault (s : State) : (toIdle s).tfault = s.tfault := rfl

/-! ### beginStep -/

@[simp] theorem beginStep_phase (s : State) : (beginStep s).phase = s.phase := rfl
@[simp] theorem beginStep_session (s : State) : (beginStep s).session = s.session := rfl
@[simp] theorem beginStep_lock (s : State) : (beginStep s).lock = s.lock := rfl
@[simp] theorem beginStep_rxSize (s : State) : (beginStep s).rxSize = s.rxSize := rfl
@[simp] theorem beginStep_rxLen (s : State) : (beginStep s).rxLen = s.rxLen := rfl
@[simp] theorem beginStep_rxSeq (s : State) : (beginStep s).rxSeq = s.rxSeq := rfl
@[simp] theorem beginStep_rxBuf (s : State) : (beginStep s).rxBuf = s.rxBuf := rfl
@[simp] theorem beginStep_txLen (s : State) : (beginStep s).txLen = s.txLen := rfl
@[simp] theorem beginStep_txBuf (s : State) : (beginStep s).txBuf = s.txBuf := rfl
@[simp] theorem beginStep_mem (s : State) : (beginStep s).mem = s.mem := rfl
@[simp] theorem beginStep_inbox (s : State) : (beginStep s).inbox = s.inbox := rfl
@[simp] theorem beginStep_out (s : State) : (beginStep s).out = [] := rfl
@[simp] theorem beginStep_tfault (s : State) : (beginStep s).tfault = none := rfl

/-! ### takeClosed -/

@[simp] theorem takeClosed_phase (s : State) : (takeClosed s).phase = .closed := rfl
@[simp] theorem takeClosed_session (s : State) : (takeClosed s).session = s.session := rfl
@[simp] theorem takeClosed_lock (s : State) : (takeClosed s).lock = s.lock := rfl
@[simp] theorem takeClosed_rxSize (s : State) : (takeClosed s).rxSize = s.rxSize := rfl
@[simp] theorem takeClosed_rxLen (s : State) : (takeClosed s).rxLen = s.rxLen := rfl
@[simp] theorem takeClosed_rxSeq (s : State) : (takeClosed s).rxSeq = s.rxSeq := rfl
@[simp] theorem takeClosed_rxBuf (s : State) : (takeClosed s).rxBuf = s.rxBuf := rfl
@[simp] theorem takeClosed_txLen (s : State) : (takeClosed s).txLen = s.txLen := rfl
@[simp] theorem takeClosed_txBuf (s : State) : (takeClosed s).txBuf = s.txBuf := rfl
@[simp] theorem takeClosed_mem (s : State) : (takeClosed s).mem = s.mem := rfl
@[simp] theorem takeClosed_inbox (s : State) : (takeClosed s).inbox = s.inbox := rfl
@[simp] theorem takeClosed_out (s : State) : (takeClosed s).out = s.out := rfl
@[simp] theorem takeClosed_tfault (s : State) : (takeClosed s).tfault = s.tfault := rfl

/-! ### cfBurst -/

@[simp] theorem cfBurst_phase (s : State) : (cfBurst s).phase = s.phase := rfl
@[simp] theorem cfBurst_session (s : State) : (cfBurst s).session = s.session := rfl
@[simp] theorem cfBurst_lock (s : State) : (cfBurst s).lock = s.lock := rfl
@[simp] theorem cfBurst_rxSize (s : State) : (cfBurst s).rxSize = s.rxSize := rfl
@[simp] theorem cfBurst_rxLen (s : State) : (cfBurst s).rxLen = s.rxLen := rfl
@[simp] theorem cfBurst_rxSeq (s : State) : (cfBurst s).rxSeq = s.rxSeq := rfl
@[simp] theorem cfBurst_rxBuf (s : State) : (cfBurst s).rxBuf = s.rxBuf := rfl
@[simp] theorem cfBurst_txLen (s : State) : (cfBurst s).txLen = s.txLen := rfl
@[simp] theorem cfBurst_txBuf (s : State) : (cfBurst s).txBuf = s.txBuf := rfl
@[simp] theorem cfBurst_mem (s : State) : (cfBurst s).mem = s.mem := rfl
@[simp] theorem cfBurst_inbox (s : State) : (cfBurst s).inbox = s.inbox := rfl
@[simp] theorem cfBurst_out (s : State) : (cfBurst s).out = s.out ++ cfFrames (s.txBuf.take s.txLen.toNat) := rfl
@[simp] theorem cfBurst_tfault (s : State) : (cfBurst s).tfault = s.tfault := rfl

/-! ### selectSession -/

@[simp] theorem selectSession_phase (v : Session) (s : State) : (selectSession v s).phase = s.phase := rfl
@[simp] theorem selectSession_session (v : Session) (s : State) : (selectSession v s).session = v := rfl
@[simp] theorem selectSession_lock (v : Session) (s : State) : (selectSession v s).lock = .locked := rfl
@[simp] theorem selectSession_rxSize (v : Session) (s : State) : (selectSession v s).rxSize = s.rxSize := rfl
@[simp] theorem selectSession_rxLen (v : Session) (s : State) : (selectSession v s).rxLen = s.rxLen := rfl
@[simp] theorem selectSession_rxSeq (v : Session) (s : State) : (selectSession v s).rxSeq = s.rxSeq := rfl
@[simp] theorem selectSession_rxBuf (v : Session) (s : State) : (selectSession v s).rxBuf = s.rxBuf := rfl
@[simp] theorem selectSession_txLen (v : Session) (s : State) : (selectSession v s).txLen = s.txLen := rfl
@[simp] theorem selectSession_txBuf (v : Session) (s : State) : (selectSession v s).txBuf = s.txBuf := rfl
@[simp] theorem selectSession_mem (v : Session) (s : State) : (selectSession v s).mem = s.mem := rfl
@[simp] theorem selectSession_inbox (v : Session) (s : State) : (selectSession v s).inbox = s.inbox := rfl
@[simp] theorem selectSession_out (v : Session) (s : State) : (selectSession v s).out = s.out := rfl
@[simp] theorem selectSession_tfault (v : Session) (s : State) : (selectSession v s).tfault = s.tfault := rfl

/-! ### resetWith -/

@[simp] theorem resetWith_phase (fw : List Byte) : (State.resetWith fw).phase = .rxIdle := rfl
@[simp] theorem resetWith_session (fw : List Byte) : (State.resetWith fw).session = .none := rfl
@[simp] theorem resetWith_lock (fw : List Byte) : (State.resetWith fw).lock = .locked := rfl
@[simp] theorem resetWith_rxSize (fw : List Byte) : (State.resetWith fw).rxSize = State.reset.rxSize := rfl
@[simp] theorem resetWith_rxLen (fw : List Byte) : (State.resetWith fw).rxLen = State.reset.rxLen := rfl
@[simp] theorem resetWith_rxSeq (fw : List Byte) : (State.resetWith fw).rxSeq = State.reset.rxSeq := rfl
@[simp] theorem resetWith_rxBuf (fw : List Byte) : (State.resetWith fw).rxBuf = State.reset.rxBuf := rfl
@[simp] theorem resetWith_txLen (fw : List Byte) : (State.resetWith fw).txLen = State.reset.txLen := rfl
@[simp] theorem resetWith_txBuf (fw : List Byte) : (State.resetWith fw).txBuf = State.reset.txBuf := rfl
@[simp] theorem resetWith_mem (fw : List Byte) : (State.resetWith fw).mem = Memory.ofImage fw := rfl
@[simp] theorem resetWith_inbox (fw : List Byte) : (State.resetWith fw).inbox = State.reset.inbox := rfl
@[simp] theorem resetWith_out (fw : List Byte) : (State.resetWith fw).out = State.reset.out := rfl
@[simp] theorem resetWith_tfault (fw : List Byte) : (State.resetWith fw).tfault = State.reset.tfault := rfl

/-! ### consume -/

@[simp] theorem consume_phase (q : List Event) (s : State) : (consume q s).phase = s.phase := rfl
@[simp] theorem consume_session (q : List Event) (s : State) : (consume q s).session = s.session := rfl
@[simp] theorem consume_lock (q : List Event) (s : State) : (consume q s).lock = s.lock := rfl
@[simp] theorem consume_rxSize (q : List Event) (s : State) : (consume q s).rxSize = s.rxSize := rfl
@[simp] theorem consume_rxLen (q : List Event) (s : State) : (consume q s).rxLen = s.rxLen := rfl
@[simp] theorem consume_rxSeq (q : List Event) (s : State) : (consume q s).rxSeq = s.rxSeq := rfl
@[simp] theorem consume_rxBuf (q : List Event) (s : State) : (consume q s).rxBuf = s.rxBuf := rfl
@[simp] theorem consume_txLen (q : List Event) (s : State) : (consume q s).txLen = s.txLen := rfl
@[simp] theorem consume_txBuf (q : List Event) (s : State) : (consume q s).txBuf = s.txBuf := rfl
@[simp] theorem consume_mem (q : List Event) (s : State) : (consume q s).mem = s.mem := rfl
@[simp] theorem consume_inbox (q : List Event) (s : State) : (consume q s).inbox = q := rfl
@[simp] theorem consume_out (q : List Event) (s : State) : (consume q s).out = [] := rfl
@[simp] theorem consume_tfault (q : List Event) (s : State) : (consume q s).tfault = none := rfl

/-! ### awaitFlowControl -/

@[simp] theorem awaitFlowControl_phase (p : List Byte) (s : State) : (awaitFlowControl p s).phase = .txWaitFc := rfl
@[simp] theorem awaitFlowControl_session (p : List Byte) (s : State) :
    (awaitFlowControl p s).session = s.session := rfl
@[simp] theorem awaitFlowControl_lock (p : List Byte) (s : State) : (awaitFlowControl p s).lock = s.lock := rfl
@[simp] theorem awaitFlowControl_rxSize (p : List Byte) (s : State) : (awaitFlowControl p s).rxSize = s.rxSize := rfl
@[simp] theorem awaitFlowControl_rxLen (p : List Byte) (s : State) : (awaitFlowControl p s).rxLen = s.rxLen := rfl
@[simp] theorem awaitFlowControl_rxSeq (p : List Byte) (s : State) : (awaitFlowControl p s).rxSeq = s.rxSeq := rfl
@[simp] theorem awaitFlowControl_rxBuf (p : List Byte) (s : State) : (awaitFlowControl p s).rxBuf = s.rxBuf := rfl
@[simp] theorem awaitFlowControl_txLen (p : List Byte) (s : State) :
    (awaitFlowControl p s).txLen = BitVec.ofNat 12 p.length := rfl
@[simp] theorem awaitFlowControl_txBuf (p : List Byte) (s : State) : (awaitFlowControl p s).txBuf = p := rfl
@[simp] theorem awaitFlowControl_mem (p : List Byte) (s : State) : (awaitFlowControl p s).mem = s.mem := rfl
@[simp] theorem awaitFlowControl_inbox (p : List Byte) (s : State) : (awaitFlowControl p s).inbox = s.inbox := rfl
@[simp] theorem awaitFlowControl_out (p : List Byte) (s : State) : (awaitFlowControl p s).out = s.out := rfl
@[simp] theorem awaitFlowControl_tfault (p : List Byte) (s : State) : (awaitFlowControl p s).tfault = s.tfault := rfl

/-! ### startReassembly -/

@[simp] theorem startReassembly_phase (len : BitVec 12) (d : Six) (s : State) :
    (startReassembly len d s).phase = .rxCf := rfl
@[simp] theorem startReassembly_session (len : BitVec 12) (d : Six) (s : State) :
    (startReassembly len d s).session = s.session := rfl
@[simp] theorem startReassembly_lock (len : BitVec 12) (d : Six) (s : State) :
    (startReassembly len d s).lock = s.lock := rfl
@[simp] theorem startReassembly_rxSize (len : BitVec 12) (d : Six) (s : State) :
    (startReassembly len d s).rxSize = len := rfl
@[simp] theorem startReassembly_rxLen (len : BitVec 12) (d : Six) (s : State) :
    (startReassembly len d s).rxLen = 6 := rfl
@[simp] theorem startReassembly_rxSeq (len : BitVec 12) (d : Six) (s : State) :
    (startReassembly len d s).rxSeq = Config.seqFirst := rfl
@[simp] theorem startReassembly_rxBuf (len : BitVec 12) (d : Six) (s : State) :
    (startReassembly len d s).rxBuf = d.toList := rfl
@[simp] theorem startReassembly_txLen (len : BitVec 12) (d : Six) (s : State) :
    (startReassembly len d s).txLen = s.txLen := rfl
@[simp] theorem startReassembly_txBuf (len : BitVec 12) (d : Six) (s : State) :
    (startReassembly len d s).txBuf = s.txBuf := rfl
@[simp] theorem startReassembly_mem (len : BitVec 12) (d : Six) (s : State) :
    (startReassembly len d s).mem = s.mem := rfl
@[simp] theorem startReassembly_inbox (len : BitVec 12) (d : Six) (s : State) :
    (startReassembly len d s).inbox = s.inbox := rfl
@[simp] theorem startReassembly_out (len : BitVec 12) (d : Six) (s : State) :
    (startReassembly len d s).out = s.out := rfl
@[simp] theorem startReassembly_tfault (len : BitVec 12) (d : Six) (s : State) :
    (startReassembly len d s).tfault = s.tfault := rfl

/-! ### appendData -/

@[simp] theorem appendData_phase (d : Seven) (s : State) : (appendData d s).phase = s.phase := rfl
@[simp] theorem appendData_session (d : Seven) (s : State) : (appendData d s).session = s.session := rfl
@[simp] theorem appendData_lock (d : Seven) (s : State) : (appendData d s).lock = s.lock := rfl
@[simp] theorem appendData_rxSize (d : Seven) (s : State) : (appendData d s).rxSize = s.rxSize := rfl
@[simp] theorem appendData_rxLen (d : Seven) (s : State) : (appendData d s).rxLen = s.rxLen := rfl
@[simp] theorem appendData_rxSeq (d : Seven) (s : State) : (appendData d s).rxSeq = s.rxSeq := rfl
@[simp] theorem appendData_rxBuf (d : Seven) (s : State) : (appendData d s).rxBuf = rxAppended d s := rfl
@[simp] theorem appendData_txLen (d : Seven) (s : State) : (appendData d s).txLen = s.txLen := rfl
@[simp] theorem appendData_txBuf (d : Seven) (s : State) : (appendData d s).txBuf = s.txBuf := rfl
@[simp] theorem appendData_mem (d : Seven) (s : State) : (appendData d s).mem = s.mem := rfl
@[simp] theorem appendData_inbox (d : Seven) (s : State) : (appendData d s).inbox = s.inbox := rfl
@[simp] theorem appendData_out (d : Seven) (s : State) : (appendData d s).out = s.out := rfl
@[simp] theorem appendData_tfault (d : Seven) (s : State) : (appendData d s).tfault = s.tfault := rfl

/-! ### extendReassembly -/

@[simp] theorem extendReassembly_phase (d : Seven) (s : State) : (extendReassembly d s).phase = s.phase := rfl
@[simp] theorem extendReassembly_session (d : Seven) (s : State) : (extendReassembly d s).session = s.session := rfl
@[simp] theorem extendReassembly_lock (d : Seven) (s : State) : (extendReassembly d s).lock = s.lock := rfl
@[simp] theorem extendReassembly_rxSize (d : Seven) (s : State) : (extendReassembly d s).rxSize = s.rxSize := rfl
@[simp] theorem extendReassembly_rxLen (d : Seven) (s : State) :
    (extendReassembly d s).rxLen = BitVec.ofNat 13 (s.rxLen.toNat + Config.cfData) := rfl
@[simp] theorem extendReassembly_rxSeq (d : Seven) (s : State) : (extendReassembly d s).rxSeq = s.rxSeq + 1 := rfl
@[simp] theorem extendReassembly_rxBuf (d : Seven) (s : State) : (extendReassembly d s).rxBuf = rxAppended d s := rfl
@[simp] theorem extendReassembly_txLen (d : Seven) (s : State) : (extendReassembly d s).txLen = s.txLen := rfl
@[simp] theorem extendReassembly_txBuf (d : Seven) (s : State) : (extendReassembly d s).txBuf = s.txBuf := rfl
@[simp] theorem extendReassembly_mem (d : Seven) (s : State) : (extendReassembly d s).mem = s.mem := rfl
@[simp] theorem extendReassembly_inbox (d : Seven) (s : State) : (extendReassembly d s).inbox = s.inbox := rfl
@[simp] theorem extendReassembly_out (d : Seven) (s : State) : (extendReassembly d s).out = s.out := rfl
@[simp] theorem extendReassembly_tfault (d : Seven) (s : State) : (extendReassembly d s).tfault = s.tfault := rfl

/-! ### withFetchWord -/

@[simp] theorem withFetchWord_phase (s : State) (nbits w : Nat) : (s.withFetchWord nbits w).phase = .rxIdle := rfl
@[simp] theorem withFetchWord_inbox (s : State) (nbits w : Nat) :
    (s.withFetchWord nbits w).inbox = .frame (fetchFrame nbits w) :: s.inbox := rfl
@[simp] theorem withFetchWord_mem (s : State) (nbits w : Nat) : (s.withFetchWord nbits w).mem = s.mem := rfl
@[simp] theorem withFetchWord_session (s : State) (nbits w : Nat) : (s.withFetchWord nbits w).session = s.session := rfl
@[simp] theorem withFetchWord_lock (s : State) (nbits w : Nat) : (s.withFetchWord nbits w).lock = s.lock := rfl

end Sys2Proof.Machine
end

