-- ==== Sys2Proof/Laws/Ops.lean ====
section
/-! SUPPORT. One spec lemma per shared operation: everything `Write`, `Respond`, a raised NRC, the timeout, the taking of
an event and the memory operations can do. Later proofs cite these and unfold nothing. -/

namespace Sys2Proof.Machine

/-! ## Memory -/

theorem cellsAt_cellsFrom (a : Nat) (fw : List Byte) : cellsAt a (cellsFrom a fw) = true := by
  induction fw generalizing a with
  | nil => rfl
  | cons b bs ih => simp [cellsFrom, cellsAt, ih]

/-- Loading an image gives the canonical form. -/
theorem wf_ofImage (fw : List Byte) : (Memory.ofImage fw).wf = true := cellsAt_cellsFrom _ fw

theorem image_cellsFrom (a : Nat) (fw : List Byte) : Memory.image (cellsFrom a fw) = fw := by
  induction fw generalizing a with
  | nil => rfl
  | cons b bs ih => simpa [cellsFrom, Memory.image] using ih (a + 1)

/-- The image of a loaded image is the image. -/
@[simp] theorem image_ofImage (fw : List Byte) : (Memory.ofImage fw).image = fw := image_cellsFrom _ fw

@[simp] theorem length_image (m : Memory) : m.image.length = m.fwLen := by simp [Memory.image, Memory.fwLen]

/-- `FW_LEN = length(FW)` (R11). -/
@[simp] theorem fwLen_ofImage (fw : List Byte) : (Memory.ofImage fw).fwLen = fw.length := by
  rw [← length_image, image_ofImage]

theorem readByte_of_cellsAt (a : Nat) (m : Memory) (h : cellsAt a m = true) (x : Nat) :
    m.readByte x = if a ≤ x then m.image[x - a]? else none := by
  induction m generalizing a with
  | nil => simp [Memory.readByte, Memory.image]
  | cons c cs ih =>
    simp only [cellsAt, Bool.and_eq_true, beq_iff_eq] at h
    obtain ⟨rfl, h⟩ := h
    rw [Memory.readByte, ih _ h]
    rcases Nat.lt_trichotomy c.1 x with hx | rfl | hx
    · rw [if_neg (by omega), if_pos (by omega), if_pos (by omega)]
      obtain ⟨k, rfl⟩ : ∃ k, x = c.1 + 1 + k := ⟨x - (c.1 + 1), by omega⟩
      rw [show c.1 + 1 + k - (c.1 + 1) = k by omega, show c.1 + 1 + k - c.1 = k + 1 by omega]
      simp [Memory.image]
    · simp [Memory.image]
    · rw [if_neg (by omega), if_neg (by omega), if_neg (by omega)]

/-- In canonical form, the byte at an address is the image's byte at the offset from MEM_BASE, and nothing stands below
MEM_BASE or beyond the image (R50, R52, R56). -/
theorem readByte_eq (m : Memory) (h : m.wf = true) (x : Nat) :
    m.readByte x = if Config.memBase ≤ x then m.image[x - Config.memBase]? else none :=
  readByte_of_cellsAt _ m h x

/-- `MemRead` returns at most the bytes asked for. -/
theorem length_memRead_le (m : Memory) (addr n : Nat) : (memRead m addr n).length ≤ n := by
  simp only [memRead, List.length_take]; omega

/-- Inside the image `MemRead` returns exactly the bytes asked for (R52). -/
theorem length_memRead (m : Memory) (addr n : Nat) (hb : Config.memBase ≤ addr)
    (he : addr + n ≤ Config.memBase + m.fwLen) : (memRead m addr n).length = n := by
  simp only [memRead, List.length_take, List.length_drop, length_image]
  omega

/-! ## Sending -/

/-- Byte 0 of a single frame is the length of its payload (R101). -/
theorem nibbles_zero (n : Nat) (h : n ≤ 15) : nibbles 0 (BitVec.ofNat 4 n) = BitVec.ofNat 8 n := by
  have : ∀ k : Fin 16, nibbles 0 (BitVec.ofNat 4 k.val) = BitVec.ofNat 8 k.val := by decide
  exact this ⟨n, by omega⟩

/-- The single frame of a payload: its length, its bytes, zeros (R101). -/
theorem singleFrame_eq (p : List Byte) (h : p.length ≤ 7) : singleFrame p = pad8 (BitVec.ofNat 8 p.length :: p) := by
  rw [singleFrame, nibbles_zero _ (by omega)]

@[simp] theorem sendSingle_eq (p : List Byte) (s : State) (h : p.length ≤ 7) :
    sendSingle p s = .next (toIdle (emit (singleFrame p) s)) := if_pos h

theorem sendFirst_eq (p : List Byte) (s : State) (h7 : 7 < p.length) (h : p.length ≤ 4095) :
    sendFirst p s =
      .next (awaitFlowControl p (emit (firstFrame p) s)) :=
  if_pos ⟨h7, h⟩

/-- `Write` of a short payload is one single frame (R100, R101). -/
theorem write_short (p : List Byte) (s : State) (h : p.length ≤ 7) :
    write p s = .next (toIdle (emit (singleFrame p) s)) := by
  rw [write, if_pos (show p.length ≤ Config.sfMax from h), sendSingle_eq p s h]

/-- `Write` of a long payload is a first frame and the wait for flow control (R100, R102). -/
theorem write_long (p : List Byte) (s : State) (h7 : 7 < p.length) (h : p.length ≤ 4095) :
    write p s =
      .next (awaitFlowControl p (emit (firstFrame p) s)) := by
  rw [write, if_neg (show ¬ p.length ≤ Config.sfMax from Nat.not_le.mpr h7), sendFirst_eq p s h7 h]

/-- Every frame of a burst is a consecutive frame (R104). -/
theorem hi_of_mem_cfLoop {k : Nat} {sn : Nibble} {l : List Byte} {f : Frame} (h : f ∈ cfLoop k sn l) : hi f.b0 = 2 := by
  induction k generalizing sn l with
  | zero => cases h
  | succ k ih =>
    cases l with
    | nil => cases h
    | cons b bs =>
      rcases List.mem_cons.1 h with rfl | h
      · exact hi_nibbles 2 sn
      · exact ih h

/-- Everything `Write` can do. -/
theorem write_cases {p : List Byte} {s t : State} (h : write p s = .next t) :
    (p.length ≤ 7 ∧ t = toIdle (emit (singleFrame p) s)) ∨
    (7 < p.length ∧ p.length ≤ 4095 ∧
      t = awaitFlowControl p (emit (firstFrame p) s)) := by
  by_cases h7 : p.length ≤ 7
  · rw [write_short p s h7] at h
    exact .inl ⟨h7, by injection h with h; exact h.symm⟩
  · by_cases hm : p.length ≤ 4095
    · rw [write_long p s (by omega) hm] at h
      exact .inr ⟨by omega, hm, by injection h with h; exact h.symm⟩
    · rw [write, if_neg (show ¬ p.length ≤ Config.sfMax from h7), sendFirst,
        if_neg (show ¬ (Config.sfMax < p.length ∧ p.length ≤ Config.msgMax) from fun hc => hm hc.2)] at h
      cases h

/-- `Write` answers a next state for every payload a first frame can declare (R100, R108). -/
theorem write_completes (p : List Byte) (s : State) (h : p.length ≤ 4095) : ∃ t, write p s = .next t := by
  by_cases h7 : p.length ≤ 7
  · exact ⟨_, write_short p s h7⟩
  · exact ⟨_, write_long p s (by omega) h⟩

/-! ## Responding -/

/-- A raised NRC is one single frame `03 7F sid nrc 00 00 00 00` (R158, R235). -/
theorem raiseNrc_eq (sid : Byte) (n : Nrc) (s : State) :
    raiseNrc sid n s = .next (toIdle (emit (pad8 [0x03, 0x7F, sid, nrcCode n]) s)) := by
  rw [raiseNrc, respond, write_short _ s (by simp), singleFrame_eq _ (by simp)]; rfl

@[simp] theorem execNeg_eq (sid : Byte) (n : Nrc) (s : State) :
    execNeg sid n s = .next (toIdle (emit (pad8 [0x03, 0x7F, sid, nrcCode n]) s)) := raiseNrc_eq sid n s

@[simp] theorem execPosDsc_eq (subFn : Byte) (s : State) :
    execPosDsc subFn s = .next (toIdle (emit (pad8 [0x02, 0x50, subFn]) s)) := by
  rw [execPosDsc, respond, write_short _ s (by simp), singleFrame_eq _ (by simp)]; rfl

@[simp] theorem execPosSaSeed_eq (s : State) :
    execPosSaSeed s = .next (toIdle (emit (pad8 [0x06, 0x67, 0x01, 0x53, 0x5F, 0xA3, 0x85]) s)) := by
  rw [execPosSaSeed, respond, write_short _ s (by simp [Config.seed]),
    singleFrame_eq _ (by simp [Config.seed])]; rfl

@[simp] theorem execPosSaKey_eq (s : State) :
    execPosSaKey s = .next (toIdle (emit (pad8 [0x02, 0x67, 0x02]) s)) := by
  rw [execPosSaKey, respond, write_short _ s (by simp), singleFrame_eq _ (by simp)]; rfl

theorem execPosRmba_eq (data : List Byte) (s : State) : execPosRmba data s = write (0x63 :: data) s := rfl

/-! ## Events -/

/-- Everything the taking of an event can do. -/
theorem takeEvent_cases (s : State) :
    (takeEvent s = (.idle, beginStep s) ∧ (s.phase = .closed ∨ s.inbox = [])) ∨
    (s.phase ≠ .closed ∧ ∃ e q, s.inbox = e :: q ∧
      ((e = .timeout ∧ takeEvent s = (.timeout, (consume q s))) ∨
       (e = .closed ∧ takeEvent s = (.closed, (consume q s))) ∨
       (∃ f, e = .frame f ∧ takeEvent s = (frameStimulus s f, (consume q s))))) := by
  rcases hi : s.inbox with _ | ⟨e, q⟩
  · left; cases hp : s.phase <;> simp [takeEvent, hp, hi]
  · cases hp : s.phase <;> cases e <;> simp [takeEvent, hp, hi]

/-- A step on a timeout. -/
theorem step_timeout (s : State) (q : List Event) (hp : s.phase ≠ .closed) (hi : s.inbox = .timeout :: q) :
    step s = .next (takeTimeout (consume q s)) := by
  rcases h : s.phase with _ | _ | _ | _ <;> simp_all [step, takeEvent]

/-- A step on the closure of the channel (R236). -/
theorem step_closure (s : State) (q : List Event) (hp : s.phase ≠ .closed) (hi : s.inbox = .closed :: q) :
    step s = .next (takeClosed (consume q s)) := by
  rcases h : s.phase with _ | _ | _ | _ <;> simp_all [step, takeEvent]

/-- A step on a frame in RX_IDLE runs the leading frame (R121). -/
theorem step_lead (s : State) (f : Frame) (q : List Event) (hp : s.phase = .rxIdle) (hi : s.inbox = .frame f :: q) :
    step s = exec (decodeLead f) (consume q s) := by
  simp [step, takeEvent, frameStimulus, hp, hi]

/-- A step on a frame in RX_CF (R125, R126). -/
theorem step_rxCf (s : State) (f : Frame) (q : List Event) (hp : s.phase = .rxCf) (hi : s.inbox = .frame f :: q) :
    step s = exec (decodeCf s.rxSeq f) (consume q s) := by
  simp [step, takeEvent, frameStimulus, hp, hi]

/-- A step on a frame in TX_WAIT_FC (R103, R105). -/
theorem step_txWaitFc (s : State) (f : Frame) (q : List Event) (hp : s.phase = .txWaitFc)
    (hi : s.inbox = .frame f :: q) : step s = exec (decodeFc f) (consume q s) := by
  simp [step, takeEvent, frameStimulus, hp, hi]

/-- A step that takes no event (log 6, log 7). -/
theorem step_idle (s : State) (h : s.phase = .closed ∨ s.inbox = []) : step s = .next (beginStep s) := by
  rcases hp : s.phase with _ | _ | _ | _ <;> rcases hi : s.inbox with _ | ⟨e, q⟩ <;> simp_all [step, takeEvent]

/-- Everything a step can do: one lemma for all later proofs about `step`. -/
theorem step_cases (s : State) :
    ((s.phase = .closed ∨ s.inbox = []) ∧ step s = .next (beginStep s)) ∨
    (∃ q, s.phase ≠ .closed ∧ s.inbox = .timeout :: q ∧ step s = .next (takeTimeout (consume q s))) ∨
    (∃ q, s.phase ≠ .closed ∧ s.inbox = .closed :: q ∧ step s = .next (takeClosed (consume q s))) ∨
    (∃ f q, s.phase = .rxIdle ∧ s.inbox = .frame f :: q ∧
      step s = exec (decodeLead f) (consume q s)) ∨
    (∃ f q, s.phase = .rxCf ∧ s.inbox = .frame f :: q ∧
      step s = exec (decodeCf s.rxSeq f) (consume q s)) ∨
    (∃ f q, s.phase = .txWaitFc ∧ s.inbox = .frame f :: q ∧
      step s = exec (decodeFc f) (consume q s)) := by
  by_cases hidle : s.phase = .closed ∨ s.inbox = []
  · exact .inl ⟨hidle, step_idle s hidle⟩
  · rw [not_or] at hidle
    obtain ⟨hp, hi⟩ := hidle
    refine .inr ?_
    rcases he : s.inbox with _ | ⟨e, q⟩
    · exact absurd he hi
    · cases e with
      | timeout => exact .inl ⟨q, hp, rfl, step_timeout s q hp he⟩
      | closed => exact .inr (.inl ⟨q, hp, rfl, step_closure s q hp he⟩)
      | frame f =>
        rcases hph : s.phase with _ | _ | _ | _
        · exact .inr (.inr (.inl ⟨f, q, rfl, rfl, step_lead s f q hph he⟩))
        · exact .inr (.inr (.inr (.inl ⟨f, q, rfl, rfl, step_rxCf s f q hph he⟩)))
        · exact .inr (.inr (.inr (.inr ⟨f, q, rfl, rfl, step_txWaitFc s f q hph he⟩)))
        · exact absurd hph hp

/-! ## Runs -/

/-- A run after a step that answers a next state. -/
theorem run_succ_next {s t : State} (h : step s = .next t) (k : Nat) :
    Host.Core.run Sys2Proof.core (k + 1) s = Host.Core.run Sys2Proof.core k t := by
  have h' : Sys2Proof.core.step s = .next t := h
  simp only [Host.Core.run, h']

/-- The frames of a run after a step that answers a next state (R58). -/
theorem sentBy_succ_next {s t : State} (h : step s = .next t) (k : Nat) :
    Safety.sentBy (k + 1) s = t.out ++ Safety.sentBy k t := by simp [Safety.sentBy, h]

end Sys2Proof.Machine
end

