-- ==== Sys2Proof/Laws/Engine.lean ====
section
/-! SUPPORT. What delivering a message to the engine can do (42_engine_dispatch.md to 45_service_read_memory.md): one
inversion lemma for `Dispatch`, from which frames and invariants follow without unfolding a handler. -/

namespace Sys2Proof.Machine

/-- What the engine does to the service state before it responds: nothing, or one successful request (R242). -/
inductive ServiceEffect (s : State) : State → Prop where
  | unchanged : ServiceEffect s s
  | select (v : Session) (h : v ≠ .none) : ServiceEffect s (selectSession v s)
  | seed (h : s.session = .extended) : ServiceEffect s { s with lock := .seedIssued }
  | key (hs : s.session = .extended) (hl : s.lock = .seedIssued) : ServiceEffect s { s with lock := .unlocked }

/-- A service effect writes session and lock alone. -/
theorem ServiceEffect.frame {s u : State} (h : ServiceEffect s u) :
    u = { s with session := u.session, lock := u.lock } := by cases h <;> rfl

/-- Everything the engine can do with a message (R160, R109): silence; one single frame after at most one service effect;
or the first frame of a successful read, in state (2, 2) with nothing else written. -/
inductive EngineNext (s : State) : State → Prop where
  | silent : EngineNext s (toIdle s)
  | single {u : State} (hu : ServiceEffect s u) (p : List Byte) (h : p.length ≤ 7) :
      EngineNext s (toIdle (emit (singleFrame p) u))
  | first (data : List Byte) (h7 : 7 ≤ data.length) (h : data.length ≤ 4094) (hs : s.session = .extended)
      (hl : s.lock = .unlocked) :
      EngineNext s (awaitFlowControl (0x63 :: data) (emit (firstFrame (0x63 :: data)) s))

theorem EngineNext.neg (sid : Byte) (n : Nrc) (s : State) :
    ∃ t, execNeg sid n s = .next t ∧ EngineNext s t :=
  ⟨_, write_short [Config.negSid, sid, nrcCode n] s (by simp), .single .unchanged _ (by simp)⟩

theorem execSaSeed_engine (rest : List Byte) (s : State) :
    ∃ t, execSaSeed rest s = .next t ∧ EngineNext s t := by
  unfold execSaSeed
  split
  · rename_i h
    exact ⟨_, write_short (0x67 :: Config.seed) _ (by simp [Config.seed]),
      .single (.seed (by simpa using h)) _ (by simp [Config.seed])⟩
  · exact EngineNext.neg _ _ s

theorem execSaKey_engine (key : List Byte) (s : State) :
    ∃ t, execSaKey key s = .next t ∧ EngineNext s t := by
  unfold execSaKey
  split
  · exact EngineNext.neg _ _ s
  · split
    · exact EngineNext.neg _ _ s
    · split
      · exact EngineNext.neg _ _ s
      · split
        · exact EngineNext.neg _ _ s
        · rename_i hs hl _ _
          exact ⟨_, write_short [0x67, 0x02] _ (by simp),
            .single (.key (by simpa using hs) (by simpa using hl)) _ (by simp)⟩

theorem execRmba_engine (a z : Nibble) (spans : List Byte) (s : State) :
    ∃ t, execRmba a z spans s = .next t ∧ EngineNext s t := by
  unfold execRmba
  split
  · exact EngineNext.neg _ _ s
  · split
    · exact EngineNext.neg _ _ s
    · split
      · exact EngineNext.neg _ _ s
      · split
        · exact EngineNext.neg _ _ s
        · rename_i hs hl _ hr
          have hs : s.session = .extended := by simpa using hs
          have hl : s.lock = .unlocked := by simpa using hl
          have hr : rmbaSize a z spans ≤ 0xFFE := ((rangeOk_iff _ _ _).1 (by simpa using hr)).1
          have hlen := length_memRead_le s.mem (rmbaAddr a spans) (rmbaSize a z spans)
          rw [execPosRmba_eq]
          generalize memRead s.mem (rmbaAddr a spans) (rmbaSize a z spans) = d at hlen
          by_cases h7 : (0x63 :: d : List Byte).length ≤ 7
          · exact ⟨_, write_short _ s h7, .single .unchanged _ h7⟩
          · rw [List.length_cons] at h7
            exact ⟨_, write_long _ s (by rw [List.length_cons]; omega) (by rw [List.length_cons]; omega),
              .first d (by omega) (by omega) hs hl⟩

theorem handler10_engine (sf : Byte) (rest : List Byte) (s : State) :
    ∃ t, handler10 sf rest s = .next t ∧ EngineNext s t := by
  unfold handler10
  split
  · exact ⟨_, write_short [0x50, 0x01] _ (by simp), .single (.select .default (by simp)) _ (by simp)⟩
  · split
    · exact ⟨_, write_short [0x50, 0x02] _ (by simp), .single (.select .extended (by simp)) _ (by simp)⟩
    · exact EngineNext.neg _ _ s

theorem handler27_engine (sf : Byte) (rest : List Byte) (s : State) :
    ∃ t, handler27 sf rest s = .next t ∧ EngineNext s t := by
  unfold handler27
  split
  · exact execSaSeed_engine rest s
  · split
    · exact execSaKey_engine rest s
    · exact EngineNext.neg _ _ s

/-- Everything `Dispatch` can do: it always answers a next state, and that state is an answer after at most one service
effect. -/
theorem dispatchMessage_engine (m : List Byte) (s : State) :
    ∃ t, dispatchMessage m s = .next t ∧ EngineNext s t := by
  have silent : ∃ t, Host.Outcome.next (φ := Fault) (ρ := Refusal) (toIdle s) = .next t ∧ EngineNext s t :=
    ⟨_, rfl, .silent⟩
  cases m with
  | nil => exact silent
  | cons sid p =>
    simp only [dispatchMessage, dispatchRequest]
    split
    · exact silent
    · split
      · exact silent
      · split
        · exact EngineNext.neg _ _ s
        · cases p with
          | nil => dsimp only; split_ifs <;> exact EngineNext.neg _ _ s
          | cons sf rest =>
            dsimp only
            split_ifs
            · exact handler10_engine sf rest s
            · exact execRmba_engine _ _ _ s
            · exact handler27_engine sf rest s

/-! ## The privilege state -/

open Safety (PrivilegeMove)

theorem write_privilege {p : List Byte} {s t : State} (h : write p s = .next t) :
    (t.session, t.lock) = (s.session, s.lock) := by
  rcases write_cases h with ⟨_, rfl⟩ | ⟨_, _, rfl⟩ <;> rfl

theorem execNeg_privilege {sid : Byte} {n : Nrc} {s t : State} (h : execNeg sid n s = .next t) :
    (t.session, t.lock) = (s.session, s.lock) :=
  write_privilege (p := [Config.negSid, sid, nrcCode n]) h

theorem eq_sidSa_of_supported {sid : Byte} (h : supportedSid sid = true) (h1 : sid ≠ Config.sidDsc)
    (h2 : sid ≠ Config.sidRmba) : sid = Config.sidSa := by
  simp only [supportedSid, Bool.or_eq_true, beq_iff_eq] at h
  rcases h with (h | h) | h
  · exact absurd h h1
  · exact absurd h h2
  · exact h

theorem execSaSeed_privilege {rest : List Byte} {s t : State} (h : execSaSeed rest s = .next t) :
    (t.session, t.lock) = (s.session, s.lock) ∨
    PrivilegeMove (0x27 :: 0x01 :: rest) (s.session, s.lock) (t.session, t.lock) := by
  unfold execSaSeed at h
  split_ifs at h with hs
  · right
    rw [write_privilege (p := 0x67 :: Config.seed) h, (inExtendedSession_iff s).1 hs]
    exact .seed rest s.lock
  · exact .inl (execNeg_privilege h)

/-- sendKey: only the right key of the right length in state (2, 1) moves anything (R192). -/
theorem execSaKey_privilege {key : List Byte} {s t : State} (h : execSaKey key s = .next t) :
    (t.session, t.lock) = (s.session, s.lock) ∨
    PrivilegeMove (0x27 :: 0x02 :: key) (s.session, s.lock) (t.session, t.lock) := by
  unfold execSaKey at h
  split_ifs at h with hs hl hn hk
  · exact .inl (execNeg_privilege h)
  · exact .inl (execNeg_privilege h)
  · exact .inl (execNeg_privilege h)
  · exact .inl (execNeg_privilege h)
  · right
    simp at hs hl hn hk
    obtain ⟨k0, k1, k2, k3, rfl⟩ : ∃ a b c d, key = [a, b, c, d] := by
      match key, hn with
      | [a, b, c, d], _ => exact ⟨a, b, c, d, rfl⟩
    simp at hk
    subst hk
    rw [write_privilege (p := [0x67, 0x02]) h, hs, hl]
    exact .key k0 k1 k2

/-- Everything `Dispatch` can do to session and lock: nothing, or the one move the message stands for (R242). -/
theorem dispatchMessage_privilege {m : List Byte} {s t : State} (h : dispatchMessage m s = .next t) :
    (t.session, t.lock) = (s.session, s.lock) ∨ PrivilegeMove m (s.session, s.lock) (t.session, t.lock) := by
  have silent (h : Host.Outcome.next (φ := Fault) (ρ := Refusal) (toIdle s) = .next t) :
      (t.session, t.lock) = (s.session, s.lock) := by injection h with h; subst h; rfl
  cases m with
  | nil => exact .inl (silent h)
  | cons sid p =>
    simp only [dispatchMessage, dispatchRequest] at h
    split at h
    · exact .inl (silent h)
    split at h
    · exact .inl (silent h)
    split at h
    · exact .inl (execNeg_privilege h)
    rename_i hsup
    cases p with
    | nil => left; dsimp only at h; split_ifs at h <;> exact execNeg_privilege h
    | cons sf rest =>
      dsimp only at h
      split_ifs at h with hd hr
      · subst hd
        unfold handler10 at h
        split_ifs at h with h1 h2
        · subst h1; exact .inr (write_privilege (p := [0x50, 0x01]) h ▸ .dsc01 rest _)
        · subst h2; exact .inr (write_privilege (p := [0x50, 0x02]) h ▸ .dsc02 rest _)
        · exact .inl (execNeg_privilege h)
      · left
        unfold handler23 execRmba at h
        split_ifs at h <;> first | exact execNeg_privilege h | exact write_privilege h
      · rw [eq_sidSa_of_supported (by simpa using hsup) hd hr]
        unfold handler27 at h
        split_ifs at h with h1 h2
        · subst h1; exact execSaSeed_privilege h
        · subst h2; exact execSaKey_privilege h
        · exact .inl (execNeg_privilege h)

end Sys2Proof.Machine
end

