-- ==== Sys2Proof/Laws/PerInstr.lean ====
section
/-! SUPPORT. Statements made for every instruction, one lemma per constructor. Family `RowLength`: a well-formed
instruction's encoding meets the length condition of its row of the opcode table (30_encoding.md R88). -/

namespace Sys2Proof.Laws.RowLength

/-- The encoding's length is within the row's bounds. -/
def Statement (i : Instr) : Prop :=
  wellFormed i = true → (tableRow i).least ≤ (encode i).length ∧ ∀ k, (tableRow i).most = some k → (encode i).length ≤ k

theorem sf (l : Nibble) (data : Seven) : Statement (.sf l data) := fun _ => ⟨Nat.le_refl _, fun _ hk => Nat.le_of_eq (Option.some.inj hk)⟩

theorem ff (len : BitVec 12) (data : Six) : Statement (.ff len data) := fun _ => ⟨Nat.le_refl _, fun _ hk => Nat.le_of_eq (Option.some.inj hk)⟩

theorem cfLead (sn : Nibble) (data : Seven) : Statement (.cfLead sn data) := fun _ => ⟨Nat.le_refl _, fun _ hk => Nat.le_of_eq (Option.some.inj hk)⟩

theorem fcLead (low : Nibble) (rest : Seven) : Statement (.fcLead low rest) := fun _ => ⟨Nat.le_refl _, fun _ hk => Nat.le_of_eq (Option.some.inj hk)⟩

theorem rsv47Lead (low : BitVec 6) (rest : Seven) : Statement (.rsv47Lead low rest) := fun _ => ⟨Nat.le_refl _, fun _ hk => Nat.le_of_eq (Option.some.inj hk)⟩

theorem rsv8FLead (low : BitVec 7) (rest : Seven) : Statement (.rsv8FLead low rest) := fun _ => ⟨Nat.le_refl _, fun _ hk => Nat.le_of_eq (Option.some.inj hk)⟩

theorem cf (sn : Nibble) (data : Seven) : Statement (.cf sn data) := fun _ => ⟨Nat.le_refl _, fun _ hk => Nat.le_of_eq (Option.some.inj hk)⟩

theorem cfMismatch (f : Frame) : Statement (.cfMismatch f) := fun _ => ⟨Nat.le_refl _, fun _ hk => Nat.le_of_eq (Option.some.inj hk)⟩

theorem fc (rest : Seven) : Statement (.fc rest) := fun _ => ⟨Nat.le_refl _, fun _ hk => Nat.le_of_eq (Option.some.inj hk)⟩

theorem fcMismatch (f : Frame) : Statement (.fcMismatch f) := fun _ => ⟨Nat.le_refl _, fun _ hk => Nat.le_of_eq (Option.some.inj hk)⟩

theorem sfTx (p : List Byte) : Statement (.sfTx p) := by
  intro h
  have hp : p.length ≤ 7 := of_decide_eq_true h
  refine ⟨?_, fun k hk => ?_⟩
  · simp [encode, tableRow, frameRow]; omega
  · injection hk with hk; subst hk; simp [encode]; omega

theorem ffTx (p : List Byte) : Statement (.ffTx p) := by
  intro h
  simp only [wellFormed, Config.sfMax, Config.msgMax, Bool.and_eq_true, decide_eq_true_eq] at h
  refine ⟨?_, fun k hk => ?_⟩
  · simp [encode, tableRow, frameRow, Config.ffData]; omega
  · injection hk with hk; subst hk; simp [encode, Config.ffData]; omega

theorem cfTx (sn : Nibble) (data : Seven) : Statement (.cfTx sn data) := fun _ => ⟨Nat.le_refl _, fun _ hk => Nat.le_of_eq (Option.some.inj hk)⟩

theorem fcTx : Statement .fcTx := fun _ => ⟨Nat.le_refl _, fun _ hk => Nat.le_of_eq (Option.some.inj hk)⟩

theorem empty : Statement .empty := fun _ => ⟨Nat.le_refl _, fun _ hk => Nat.le_of_eq (Option.some.inj hk)⟩

theorem ignored80FF (sid : BitVec 7) (rest : List Byte) : Statement (.ignored80FF sid rest) := by
  intro _; simp [encode, tableRow, reqRow]

theorem ignored407F (sid : BitVec 6) (rest : List Byte) : Statement (.ignored407F sid rest) := by
  intro _; simp [encode, tableRow, reqRow]

theorem shortDsc : Statement .shortDsc := fun _ => ⟨Nat.le_refl _, fun _ hk => Nat.le_of_eq (Option.some.inj hk)⟩

theorem shortRmba : Statement .shortRmba := fun _ => ⟨Nat.le_refl _, fun _ hk => Nat.le_of_eq (Option.some.inj hk)⟩

theorem shortSa : Statement .shortSa := fun _ => ⟨Nat.le_refl _, fun _ hk => Nat.le_of_eq (Option.some.inj hk)⟩

theorem dsc01 (rest : List Byte) : Statement (.dsc01 rest) := by
  intro _; simp [encode, tableRow, reqRow]

theorem dsc02 (rest : List Byte) : Statement (.dsc02 rest) := by
  intro _; simp [encode, tableRow, reqRow]

theorem dscOther (subFn : Byte) (rest : List Byte) : Statement (.dscOther subFn rest) := by
  intro _; simp [encode, tableRow, reqRow]

theorem saSeed (rest : List Byte) : Statement (.saSeed rest) := by
  intro _; simp [encode, tableRow, reqRow]

theorem saKey (key : List Byte) : Statement (.saKey key) := by
  intro _; simp [encode, tableRow, reqRow]

theorem saOther (subFn : Byte) (rest : List Byte) : Statement (.saOther subFn rest) := by
  intro _; simp [encode, tableRow, reqRow]

theorem rmba (addrSize : Nibble) (sizeSize : Nibble) (spans : List Byte) : Statement (.rmba addrSize sizeSize spans) := by
  intro _; simp [encode, tableRow, reqRow]

theorem unsupported (sid : Byte) (rest : List Byte) : Statement (.unsupported sid rest) := by
  intro _; simp [encode, tableRow, reqRow]

theorem posDsc (subFn : Byte) : Statement (.posDsc subFn) := fun _ => ⟨Nat.le_refl _, fun _ hk => Nat.le_of_eq (Option.some.inj hk)⟩

theorem posRmba (data : List Byte) : Statement (.posRmba data) := by
  intro h
  have hp : data.length + 1 ≤ 4095 := of_decide_eq_true h
  refine ⟨?_, fun k hk => ?_⟩
  · simp [encode, tableRow, rspRow]
  · injection hk with hk; subst hk; simpa [encode] using hp

theorem posSaSeed : Statement .posSaSeed := fun _ => ⟨Nat.le_refl _, fun _ hk => Nat.le_of_eq (Option.some.inj hk)⟩

theorem posSaKey : Statement .posSaKey := fun _ => ⟨Nat.le_refl _, fun _ hk => Nat.le_of_eq (Option.some.inj hk)⟩

theorem neg (sid : Byte) (nrc : Nrc) : Statement (.neg sid nrc) := fun _ => ⟨Nat.le_refl _, fun _ hk => Nat.le_of_eq (Option.some.inj hk)⟩

end Sys2Proof.Laws.RowLength
end

