-- ==== Sys2Proof/Laws/Step.lean ====
section
/-! SUPPORT. What a step can do, said once (00_scope.md R16): one inversion lemma for `step`, from which frames and
invariants follow by a short case analysis that unfolds neither the decoder nor a meaning. -/

namespace Sys2Proof.Machine

open Safety (deliveredMessage)

/-- A leading frame of type nibble above 1 is dropped, whichever of the four rows it is (R128). -/
theorem exec_decodeLead_invalid (f : Frame) (s : State) (h0 : hi f.b0 ≠ 0) (h1 : hi f.b0 ≠ 1) :
    exec (decodeLead f) s = .next (raiseTfault .leadType s) := by
  rw [decodeLead, if_neg h0, if_neg h1]
  split_ifs <;> rfl

theorem decodeLead_single (f : Frame) (h : hi f.b0 = 0) : decodeLead f = .sf (lo f.b0) f.rest := if_pos h

theorem decodeLead_first (f : Frame) (h : hi f.b0 = 1) :
    decodeLead f = .ff (firstFrameLen f.b0 f.rest.b1) (sixOf f.rest) := by
  rw [decodeLead, if_neg (by rw [h]; decide), if_pos h]

/-- Everything a step that answers a next state can do. -/
inductive StepNext (s : State) : State → Prop where
  /-- no event taken (log 6, log 7) -/
  | idle (h : s.phase = .closed ∨ s.inbox = []) : StepNext s (beginStep s)
  /-- R120, R127, R106 -/
  | timeout (q : List Event) (hp : s.phase ≠ .closed) (hin : s.inbox = .timeout :: q) :
      StepNext s (takeTimeout (consume q s))
  /-- R236 -/
  | closure (q : List Event) (hp : s.phase ≠ .closed) (hin : s.inbox = .closed :: q) :
      StepNext s (takeClosed (consume q s))
  /-- R128 -/
  | leadInvalid (f : Frame) (q : List Event) (hp : s.phase = .rxIdle) (hin : s.inbox = .frame f :: q)
      (h0 : hi f.b0 ≠ 0) (h1 : hi f.b0 ≠ 1) : StepNext s (raiseTfault .leadType (consume q s))
  /-- R122: a single frame's message answered -/
  | single (f : Frame) (q : List Event) (t : State) (hp : s.phase = .rxIdle) (hin : s.inbox = .frame f :: q)
      (h0 : hi f.b0 = 0) (hd : dispatchMessage (singlePayload (lo f.b0) f.rest) (consume q s) = .next t)
      (he : EngineNext (consume q s) t) (hm : deliveredMessage s = some (singlePayload (lo f.b0) f.rest)) : StepNext s t
  /-- R123: a first frame that declares at most six bytes, answered -/
  | firstDelivers (f : Frame) (q : List Event) (t : State) (hp : s.phase = .rxIdle) (hin : s.inbox = .frame f :: q)
      (h1 : hi f.b0 = 1)
      (hd : dispatchMessage (sixOf f.rest).toList (emit flowControlFrame (consume q s)) = .next t)
      (he : EngineNext (emit flowControlFrame (consume q s)) t)
      (hm : deliveredMessage s = some (sixOf f.rest).toList) : StepNext s t
  /-- R123: a reassembly begins -/
  | firstStarts (f : Frame) (q : List Event) (hp : s.phase = .rxIdle) (hin : s.inbox = .frame f :: q)
      (h1 : hi f.b0 = 1) (hl : 6 < (firstFrameLen f.b0 f.rest.b1).toNat) :
      StepNext s (startReassembly (firstFrameLen f.b0 f.rest.b1) (sixOf f.rest) (emit flowControlFrame (consume q s)))
  /-- R126 -/
  | mismatch (f : Frame) (q : List Event) (hp : s.phase = .rxCf) (hin : s.inbox = .frame f :: q)
      (hb : f.b0 ≠ nibbles 2 s.rxSeq) : StepNext s (raiseTfault .cfSeq (consume q s))
  /-- R125: the message grows -/
  | grows (f : Frame) (q : List Event) (hp : s.phase = .rxCf) (hin : s.inbox = .frame f :: q)
      (hb : f.b0 = nibbles 2 s.rxSeq) (hc : s.rxLen.toNat + 7 ≤ 4101) (hl : s.rxLen.toNat + 7 < s.rxSize.toNat) :
      StepNext s (extendReassembly f.rest (consume q s))
  /-- R125: the message is complete, answered -/
  | completes (f : Frame) (q : List Event) (t : State) (hp : s.phase = .rxCf) (hin : s.inbox = .frame f :: q)
      (hb : f.b0 = nibbles 2 s.rxSeq) (hc : s.rxLen.toNat + 7 ≤ 4101) (hl : s.rxSize.toNat ≤ s.rxLen.toNat + 7)
      (hd : dispatchMessage (rxAppended f.rest (consume q s)) (appendData f.rest (consume q s)) = .next t)
      (he : EngineNext (appendData f.rest (consume q s)) t)
      (hm : deliveredMessage s = some (rxAppended f.rest (consume q s))) : StepNext s t
  /-- R103 -/
  | burst (f : Frame) (q : List Event) (hp : s.phase = .txWaitFc) (hin : s.inbox = .frame f :: q)
      (hb : f.b0 = Config.fcCts) : StepNext s (toIdle (cfBurst (consume q s)))
  /-- R105 -/
  | flowMismatch (f : Frame) (q : List Event) (hp : s.phase = .txWaitFc) (hin : s.inbox = .frame f :: q)
      (hb : f.b0 ≠ Config.fcCts) : StepNext s (raiseTfault .fcBad (consume q s))

theorem next_inj {a b : State} (h : (Host.Outcome.next a : Outcome) = .next b) : a = b := by injection h

/-- What the engine can do, from the answer it gave. -/
theorem engineNext_of_dispatch {m : List Byte} {s t : State} (h : dispatchMessage m s = .next t) : EngineNext s t := by
  obtain ⟨t', ht, he⟩ := dispatchMessage_engine m s
  obtain rfl := next_inj (h.symm.trans ht)
  exact he

/-- A step on a frame in RX_IDLE. -/
theorem stepNext_lead {s t : State} {f : Frame} {q : List Event} (hp : s.phase = .rxIdle) (hin : s.inbox = .frame f :: q)
    (h : step s = .next t) : StepNext s t := by
  have hst : takeEvent s = (.run (decodeLead f), consume q s) := by simp [takeEvent, hp, hin, frameStimulus]
  rw [step_lead s f q hp hin] at h
  by_cases h0 : hi f.b0 = 0
  · rw [decodeLead_single f h0] at h hst
    exact .single f q t hp hin h0 h (engineNext_of_dispatch h) (by rw [deliveredMessage, hst])
  · by_cases h1 : hi f.b0 = 1
    · rw [decodeLead_first f h1] at h hst
      change execFf (firstFrameLen f.b0 f.rest.b1) (sixOf f.rest) (consume q s) = .next t at h
      unfold execFf at h
      split_ifs at h with hl
      · exact .firstDelivers f q t hp hin h1 h (engineNext_of_dispatch h)
          (by rw [deliveredMessage, hst]; simp only [if_pos hl])
      · obtain rfl := next_inj h
        exact .firstStarts f q hp hin h1 (by simpa [Config.ffData] using hl)
    · rw [exec_decodeLead_invalid f _ h0 h1] at h
      obtain rfl := next_inj h
      exact .leadInvalid f q hp hin h0 h1

/-- A step on a frame in RX_CF. -/
theorem stepNext_rxCf {s t : State} {f : Frame} {q : List Event} (hp : s.phase = .rxCf) (hin : s.inbox = .frame f :: q)
    (h : step s = .next t) : StepNext s t := by
  have hst : takeEvent s = (.run (decodeCf s.rxSeq f), consume q s) := by simp [takeEvent, hp, hin, frameStimulus]
  rw [step_rxCf s f q hp hin] at h
  unfold decodeCf at h hst
  split_ifs at h hst with hb
  · change execCf s.rxSeq f.rest (consume q s) = .next t at h
    unfold execCf at h
    split_ifs at h with ho hl
    · exact .completes f q t hp hin hb (by simp [Config.cfData, Config.rxCap] at ho; omega)
        (by simpa [Config.cfData] using hl) h (engineNext_of_dispatch h)
        (by rw [deliveredMessage, hst]; simp only [if_pos hl])
    · obtain rfl := next_inj h
      exact .grows f q hp hin hb (by simp [Config.cfData, Config.rxCap] at ho; omega)
        (by simpa [Config.cfData] using hl)
  · obtain rfl := next_inj h
    exact .mismatch f q hp hin hb

/-- A step on a frame in TX_WAIT_FC. -/
theorem stepNext_txWaitFc {s t : State} {f : Frame} {q : List Event} (hp : s.phase = .txWaitFc)
    (hin : s.inbox = .frame f :: q) (h : step s = .next t) : StepNext s t := by
  rw [step_txWaitFc s f q hp hin] at h
  unfold decodeFc at h
  split_ifs at h with hb
  · obtain rfl := next_inj h
    exact .burst f q hp hin hb
  · obtain rfl := next_inj h
    exact .flowMismatch f q hp hin hb

/-- Everything a step can do. -/
theorem stepNext_of_step {s t : State} (h : step s = .next t) : StepNext s t := by
  rcases step_cases s with ⟨hidle, e⟩ | ⟨q, hp, hin, e⟩ | ⟨q, hp, hin, e⟩ | ⟨f, q, hp, hin, _⟩ | ⟨f, q, hp, hin, _⟩ |
    ⟨f, q, hp, hin, _⟩
  · obtain rfl := next_inj (e.symm.trans h)
    exact .idle hidle
  · obtain rfl := next_inj (e.symm.trans h)
    exact .timeout q hp hin
  · obtain rfl := next_inj (e.symm.trans h)
    exact .closure q hp hin
  · exact stepNext_lead hp hin h
  · exact stepNext_rxCf hp hin h
  · exact stepNext_txWaitFc hp hin h

end Sys2Proof.Machine
end

