-- ==== Sys2Proof/Tests/Slice0.lean ====
section
/-! SUPPORT. The model's own tests. Expected results come from the spec: the encodings of 30_encoding.md for the decode
tests, the vectors and programs of 95_test_vectors.md (ids V-.., P..) for the steps. The last part shows, for every
statement with hypotheses, a concrete state and operands that meet all of them together. -/

namespace Sys2Proof.Tests

open Sys2Proof.Machine Sys2Proof.Safety

/-! ## Helpers -/

/-- `FW_T` of 95_test_vectors.md, section 0. -/
def fwT : List Byte := (List.range 32).map (BitVec.ofNat 8)

/-- RX_IDLE `(session, lock)` with the image `FW_T` and the given events to come. -/
def idle (v : Session) (l : Lock) (q : List Event) : State :=
  { State.resetWith fwT with session := v, lock := l, inbox := q }

/-- The state after `> FF 00D : 23 47 00 00 10 00` (P3, V-RX-11). -/
def inCf (v : Session) (l : Lock) (q : List Event) : State :=
  { idle v l q with phase := .rxCf, rxSize := 13, rxLen := 6, rxSeq := 1, rxBuf := [0x23, 0x47, 0, 0, 0x10, 0] }

/-- The state after `> RMBA 2.2 1004 000A` (P2): TX_WAIT_FC (2,2), the response of 11 bytes held. -/
def waitFc (q : List Event) : State :=
  { idle .extended .unlocked q with
    phase := .txWaitFc, txLen := 11, txBuf := [0x63, 4, 5, 6, 7, 8, 9, 0x0A, 0x0B, 0x0C, 0x0D] }

/-- A frame from its eight bytes. -/
def fr (b0 b1 b2 b3 b4 b5 b6 b7 : Byte) : Frame := ⟨b0, ⟨b1, b2, b3, b4, b5, b6, b7⟩⟩

/-- What a vector shows of a step: frames emitted, phase, session, lock, tfault. -/
structure Shown where
  out     : List Frame
  phase   : Phase
  session : Session
  lock    : Lock
  tfault  : Option TFault
  deriving DecidableEq, Repr

/-- What a step shows; nothing where it stops. -/
def shown (o : Outcome) : Option Shown :=
  match o with
  | .next t => some ⟨t.out, t.phase, t.session, t.lock, t.tfault⟩
  | .fault _ => none
  | .refused _ => none

/-- A single frame with a message of at most seven bytes taken in RX_IDLE: what it shows. -/
def answer (v : Session) (l : Lock) (m : List Byte) : Option Shown :=
  shown (step (idle v l [Script.sf m]))

/-! ## WellFormed: each check refuses an ill-formed term -/

theorem test_wf_fcMismatch_is_not_fc : wellFormed (.fcMismatch (fr 0x30 0 0 0 0 0 0 0)) = false := by decide
theorem test_wf_sfTx_at_most_7 : wellFormed (.sfTx (List.replicate 8 0)) = false := by decide
theorem test_wf_ffTx_above_7 : wellFormed (.ffTx (List.replicate 7 0)) = false := by decide
theorem test_wf_ffTx_at_most_4095 : wellFormed (.ffTx (List.replicate 4096 0)) = false := by
  simp only [wellFormed, List.length_replicate]; decide
theorem test_wf_request_at_most_4101 :
    wellFormed (.ignored80FF 0 (List.replicate 4101 0)) = false ∧ wellFormed (.ignored407F 0 (List.replicate 4101 0)) = false ∧
    wellFormed (.dsc01 (List.replicate 4100 0)) = false ∧ wellFormed (.dsc02 (List.replicate 4100 0)) = false ∧
    wellFormed (.dscOther 3 (List.replicate 4100 0)) = false ∧ wellFormed (.saSeed (List.replicate 4100 0)) = false ∧
    wellFormed (.saKey (List.replicate 4100 0)) = false ∧ wellFormed (.saOther 3 (List.replicate 4100 0)) = false ∧
    wellFormed (.rmba 0 0 (List.replicate 4100 0)) = false ∧
    wellFormed (.unsupported 0x3E (List.replicate 4101 0)) = false := by
  simp only [wellFormed, List.length_replicate]; decide
theorem test_wf_other_sub_function :
    wellFormed (.dscOther 1 []) = false ∧ wellFormed (.dscOther 2 []) = false ∧ wellFormed (.saOther 1 []) = false ∧
    wellFormed (.saOther 2 []) = false := by decide
theorem test_wf_unsupported_service :
    wellFormed (.unsupported 0x40 []) = false ∧ wellFormed (.unsupported 0x10 []) = false ∧
    wellFormed (.unsupported 0x23 []) = false ∧ wellFormed (.unsupported 0x27 []) = false := by decide
theorem test_wf_posDsc_sub_function : wellFormed (.posDsc 3) = false := by decide
theorem test_wf_posRmba_at_most_4094 : wellFormed (.posRmba (List.replicate 4095 0)) = false := by
  simp only [wellFormed, List.length_replicate]; decide
theorem test_wf_neg_answers_a_request : wellFormed (.neg 0x40 .invalidKey) = false := by decide

/-! ## Decode: words written out from 30_encoding.md, every constructor -/

/-- R72, R73, R74, R75, R76: byte 0 is the type nibble and the low nibble. -/
theorem test_decode_leading_frames :
    decode .rxIdle [0x0F, 1, 2, 3, 4, 5, 6, 7] = .ok (.sf 15 ⟨1, 2, 3, 4, 5, 6, 7⟩) ∧
    decode .rxIdle [0x1F, 0xFE, 2, 3, 4, 5, 6, 7] = .ok (.ff 4094 ⟨2, 3, 4, 5, 6, 7⟩) ∧
    decode .rxIdle [0x2A, 1, 2, 3, 4, 5, 6, 7] = .ok (.cfLead 10 ⟨1, 2, 3, 4, 5, 6, 7⟩) ∧
    decode .rxIdle [0x30, 1, 2, 3, 4, 5, 6, 7] = .ok (.fcLead 0 ⟨1, 2, 3, 4, 5, 6, 7⟩) ∧
    decode .rxIdle [0x40, 1, 2, 3, 4, 5, 6, 7] = .ok (.rsv47Lead 0 ⟨1, 2, 3, 4, 5, 6, 7⟩) ∧
    decode .rxIdle [0x7F, 1, 2, 3, 4, 5, 6, 7] = .ok (.rsv47Lead 0x3F ⟨1, 2, 3, 4, 5, 6, 7⟩) ∧
    decode .rxIdle [0x80, 1, 2, 3, 4, 5, 6, 7] = .ok (.rsv8FLead 0 ⟨1, 2, 3, 4, 5, 6, 7⟩) ∧
    decode .rxIdle [0xFF, 1, 2, 3, 4, 5, 6, 7] = .ok (.rsv8FLead 0x7F ⟨1, 2, 3, 4, 5, 6, 7⟩) := by decide

/-- R77: in RX_CF and TX_WAIT_FC the whole of byte 0 is compared. -/
theorem test_decode_awaited_frames :
    decode (.rxCf 0) [0x20, 1, 2, 3, 4, 5, 6, 7] = .ok (.cf 0 ⟨1, 2, 3, 4, 5, 6, 7⟩) ∧
    decode (.rxCf 1) [0x20, 1, 2, 3, 4, 5, 6, 7] = .ok (.cfMismatch (fr 0x20 1 2 3 4 5 6 7)) ∧
    decode (.rxCf 1) [0x01, 1, 2, 3, 4, 5, 6, 7] = .ok (.cfMismatch (fr 0x01 1 2 3 4 5 6 7)) ∧
    decode .txWaitFc [0x30, 1, 2, 3, 4, 5, 6, 7] = .ok (.fc ⟨1, 2, 3, 4, 5, 6, 7⟩) ∧
    decode .txWaitFc [0x31, 1, 2, 3, 4, 5, 6, 7] = .ok (.fcMismatch (fr 0x31 1 2 3 4 5 6 7)) := by decide

/-- R72 to R75, the frames the block sends. -/
theorem test_decode_sent_frames :
    decode (.tx []) [0x07, 1, 2, 3, 4, 5, 6, 7] = .ok (.sfTx [1, 2, 3, 4, 5, 6, 7]) ∧
    decode (.tx [1, 2, 3, 4, 5, 6, 7, 8]) [0x10, 0x08, 1, 2, 3, 4, 5, 6] = .ok (.ffTx [1, 2, 3, 4, 5, 6, 7, 8]) ∧
    decode (.tx []) [0x2F, 1, 2, 3, 4, 5, 6, 7] = .ok (.cfTx 15 ⟨1, 2, 3, 4, 5, 6, 7⟩) ∧
    decode (.tx []) [0x30, 0, 0, 0, 0, 0, 0, 0] = .ok .fcTx := by decide

/-- R79 to R82, the delivered requests; R13: the first byte of a message is the high byte of the word. -/
theorem test_decode_requests :
    decode .req [] = .ok .empty ∧
    decode .req [0x80] = .ok (.ignored80FF 0 []) ∧ decode .req [0xFF, 9] = .ok (.ignored80FF 0x7F [9]) ∧
    decode .req [0x40] = .ok (.ignored407F 0 []) ∧ decode .req [0x7F, 9] = .ok (.ignored407F 0x3F [9]) ∧
    decode .req [0x10] = .ok .shortDsc ∧ decode .req [0x23] = .ok .shortRmba ∧ decode .req [0x27] = .ok .shortSa ∧
    decodeTableWord 16 0x1001 = some (.dsc01 []) ∧ decode .req [0x10, 0x02, 9] = .ok (.dsc02 [9]) ∧
    decode .req [0x10, 0x81] = .ok (.dscOther 0x81 []) ∧ decode .req [0x27, 0x01] = .ok (.saSeed []) ∧
    decode .req [0x27, 0x02, 1, 2, 3, 0x85] = .ok (.saKey [1, 2, 3, 0x85]) ∧
    decode .req [0x27, 0x00] = .ok (.saOther 0 []) ∧
    decode .req [0x23, 0x12, 0x10, 0, 4] = .ok (.rmba 1 2 [0x10, 0, 4]) ∧
    decode .req [0x3F] = .ok (.unsupported 0x3F []) ∧ decodeTableWord 16 0x0000 = some (.unsupported 0 [0]) := by decide

/-- R83, the responses. -/
theorem test_decode_responses :
    decode .rsp [0x50, 0x01] = .ok (.posDsc 1) ∧ decode .rsp [0x63] = .ok (.posRmba []) ∧
    decode .rsp [0x67, 0x01, 0x53, 0x5F, 0xA3, 0x85] = .ok .posSaSeed ∧ decode .rsp [0x67, 0x02] = .ok .posSaKey ∧
    decode .rsp [0x7F, 0x27, 0x35] = .ok (.neg 0x27 .invalidKey) := by decide

/-- What a format does not carry is rejected by name. -/
theorem test_decode_rejects :
    decode .rxIdle [0x30, 0, 0] = .error .notEightBytes ∧ decode (.tx []) [0x02, 1, 2, 3, 0, 0, 0, 0] = .error .txSinglePadding ∧
    decode (.tx []) [0x08, 1, 2, 3, 0, 0, 0, 0] = .error .txSingleLength ∧
    decode (.tx [1, 2, 3, 4, 5, 6, 7]) [0x10, 0x07, 1, 2, 3, 4, 5, 6] = .error .txFirstLength ∧
    decode (.tx [1, 2, 3, 4, 5, 6, 7, 8]) [0x10, 0x09, 1, 2, 3, 4, 5, 6] = .error .txFirstPayload ∧
    decode (.tx [1, 2, 3, 4, 5, 6, 7, 8]) [0x10, 0x08, 1, 2, 3, 4, 5, 7] = .error .txFirstPayload ∧
    decode (.tx []) [0x31, 0, 0, 0, 0, 0, 0, 0] = .error .txType ∧ decode (.tx []) [0x30, 1, 0, 0, 0, 0, 0, 0] = .error .txFlowControl ∧
    decode .rsp [0x51] = .error .rspIdentifier ∧ decode .rsp [0x50, 3] = .error .rspBody ∧
    decode .rsp [0x7F, 0x27, 0x10] = .error .rspNrc := by decide

/-! ## Received frames: one step each -/

/-- V-RX-1: padding is not examined. -/
theorem test_sf_padding : shown (step (idle .none .locked [.frame (fr 2 0x10 2 0xAA 0xBB 0xCC 0xDD 0xEE)])) =
    some ⟨[fr 2 0x50 2 0 0 0 0 0], .rxIdle, .extended, .locked, none⟩ := by decide
/-- V-RX-3: a length nibble above 7 delivers seven bytes. -/
theorem test_sf_long_nibble : shown (step (idle .none .locked [.frame (fr 0x0F 0x10 2 3 4 5 6 7)])) =
    some ⟨[fr 2 0x50 2 0 0 0 0 0], .rxIdle, .extended, .locked, none⟩ := by decide
/-- V-RX-4: flow control, then the six bytes at once. -/
theorem test_ff_six : shown (step (idle .none .locked [Script.ff 6 ⟨0x10, 2, 0, 0, 0, 0⟩])) =
    some ⟨[fr 0x30 0 0 0 0 0 0 0, fr 2 0x50 2 0 0 0 0 0], .rxIdle, .extended, .locked, none⟩ := by decide
/-- V-RX-6, V-RX-8: declared size 7 starts a reassembly. -/
theorem test_ff_seven : shown (step (idle .extended .seedIssued [Script.ff 7 ⟨0x27, 2, 0, 0, 0, 0x85⟩])) =
    some ⟨[fr 0x30 0 0 0 0 0 0 0], .rxCf, .extended, .seedIssued, none⟩ := by decide
/-- V-ENC-2. -/
theorem test_cfLead : shown (step (idle .none .locked [.frame (fr 0x21 0 0 0 0 0 0 0)])) =
    some ⟨[], .rxIdle, .none, .locked, some .leadType⟩ := by decide
/-- V-ENC-3: flow control nobody waits for. -/
theorem test_fcLead : shown (step (idle .none .locked [Script.fc])) =
    some ⟨[], .rxIdle, .none, .locked, some .leadType⟩ := by decide
/-- V-ENC-4, V-ENC-5. -/
theorem test_rsv47Lead : shown (step (idle .none .locked [.frame (fr 0x7F 0 0 0 0 0 0 0)])) =
    some ⟨[], .rxIdle, .none, .locked, some .leadType⟩ := by decide
/-- V-ENC-6. -/
theorem test_rsv8FLead : shown (step (idle .none .locked [.frame (fr 0xFF 0 0 0 0 0 0 0)])) =
    some ⟨[], .rxIdle, .none, .locked, some .leadType⟩ := by decide
/-- P3: the last frame delivers all thirteen bytes, two firmware bytes are read. -/
theorem test_cf_completes : shown (step (inCf .extended .unlocked [Script.cf 1 [0, 0, 0, 0, 0, 0, 2]])) =
    some ⟨[fr 3 0x63 0 1 0 0 0 0], .rxIdle, .extended, .unlocked, none⟩ := by decide
/-- V-RX-9: after sequence number 15 comes 0, then 1. -/
theorem test_cf_wraps :
    (match step { inCf .none .locked [Script.cf 15 [0]] with rxSize := 125, rxSeq := 15, rxLen := 104 } with
      | .next t => t.phase == .rxCf && t.rxSeq == 0 && t.rxLen == 111 && t.out == []
      | .fault _ => false
      | .refused _ => false) = true := by decide
/-- V-RX-11: a single frame in place of a consecutive frame is lost. -/
theorem test_cfMismatch : shown (step (inCf .none .locked [Script.sf [0x10, 2]])) =
    some ⟨[], .rxIdle, .none, .locked, some .cfSeq⟩ := by decide
/-- P2: the rest of the response, padded. -/
theorem test_fc_burst : shown (step (waitFc [Script.fc])) =
    some ⟨[fr 0x21 9 0x0A 0x0B 0x0C 0x0D 0 0], .rxIdle, .extended, .unlocked, none⟩ := by decide
/-- V-TX-5: only byte 0 is examined. -/
theorem test_fc_other_bytes : shown (step (waitFc [.frame (fr 0x30 8 0x7F 0xAA 0xBB 0xCC 0xDD 0xEE)])) =
    some ⟨[fr 0x21 9 0x0A 0x0B 0x0C 0x0D 0 0], .rxIdle, .extended, .unlocked, none⟩ := by decide
/-- P2c: a request in place of flow control is consumed and not executed. -/
theorem test_fcMismatch : shown (step (waitFc [Script.sf [0x10, 1]])) =
    some ⟨[], .rxIdle, .extended, .unlocked, some .fcBad⟩ := by decide

/-! ## Events -/

/-- V-ENC-7, V-RX-12, P2b. -/
theorem test_timeout :
    shown (step (idle .none .locked [.timeout])) = some ⟨[], .rxIdle, .none, .locked, none⟩ ∧
    shown (step (inCf .none .locked [.timeout])) = some ⟨[], .rxIdle, .none, .locked, some .cfAbsent⟩ ∧
    shown (step (waitFc [.timeout])) = some ⟨[], .rxIdle, .extended, .unlocked, some .fcAbsent⟩ := by decide
/-- V-RX-15, V-TX-10, V-RST-2. -/
theorem test_closure :
    shown (step (inCf .none .locked [.closed])) = some ⟨[], .closed, .none, .locked, none⟩ ∧
    shown (step (waitFc [.closed])) = some ⟨[], .closed, .extended, .unlocked, none⟩ ∧
    shown (step { idle .extended .locked [Script.sf [0x10, 2]] with phase := .closed }) =
      some ⟨[], .closed, .extended, .locked, none⟩ := by decide

/-! ## Sent frames -/

/-- E1, n = 1 and n = 0. -/
theorem test_sfTx : shown (exec (.sfTx [0xA0]) (idle .none .locked [])) =
    some ⟨[fr 1 0xA0 0 0 0 0 0 0], .rxIdle, .none, .locked, none⟩ := by decide
/-- E1, n = 8. -/
theorem test_ffTx : shown (exec (.ffTx [0xA0, 0xA1, 0xA2, 0xA3, 0xA4, 0xA5, 0xA6, 0xA7]) (idle .none .locked [])) =
    some ⟨[fr 0x10 8 0xA0 0xA1 0xA2 0xA3 0xA4 0xA5], .txWaitFc, .none, .locked, none⟩ := by decide
/-- V-TX-9: sequence number 0 is used. -/
theorem test_cfTx : shown (exec (.cfTx 0 ⟨0x6E, 0x6F, 0x70, 0x71, 0x72, 0x73, 0x74⟩) (waitFc [])) =
    some ⟨[fr 0x20 0x6E 0x6F 0x70 0x71 0x72 0x73 0x74], .txWaitFc, .extended, .unlocked, none⟩ := by decide
/-- R124. -/
theorem test_fcTx : shown (exec .fcTx (idle .none .locked [])) =
    some ⟨[fr 0x30 0 0 0 0 0 0 0], .rxIdle, .none, .locked, none⟩ := by decide
/-- V-TX-9: sixteen full frames of a 118-byte payload, the sequence byte running 21 .. 2F, 20. -/
theorem test_burst_wraps : (cfFrames ((List.range 118).map (BitVec.ofNat 8))).map Frame.b0 =
    [0x21, 0x22, 0x23, 0x24, 0x25, 0x26, 0x27, 0x28, 0x29, 0x2A, 0x2B, 0x2C, 0x2D, 0x2E, 0x2F, 0x20] := by decide

/-! ## Requests -/

/-- V-ENG-1. -/
theorem test_empty : answer .none .locked [] = some ⟨[], .rxIdle, .none, .locked, none⟩ := by decide
/-- V-ENG-3. -/
theorem test_ignored80FF : answer .none .locked [0xFF, 0] = some ⟨[], .rxIdle, .none, .locked, none⟩ := by decide
/-- V-ENG-2, V-ENG-12. -/
theorem test_ignored407F : answer .none .locked [0x40] = some ⟨[], .rxIdle, .none, .locked, none⟩ ∧
    answer .none .locked [0x7F, 0x10, 0x11] = some ⟨[], .rxIdle, .none, .locked, none⟩ := by decide
/-- V-ENG-5. -/
theorem test_shortDsc : answer .none .locked [0x10] =
    some ⟨[fr 3 0x7F 0x10 0x13 0 0 0 0], .rxIdle, .none, .locked, none⟩ := by decide
/-- V-ENG-4. -/
theorem test_shortRmba : answer .none .locked [0x23] =
    some ⟨[fr 3 0x7F 0x23 0x13 0 0 0 0], .rxIdle, .none, .locked, none⟩ := by decide
/-- V-ENG-6. -/
theorem test_shortSa : answer .none .locked [0x27] =
    some ⟨[fr 3 0x7F 0x27 0x13 0 0 0 0], .rxIdle, .none, .locked, none⟩ := by decide
/-- V-ENG-7, V-ENG-9. -/
theorem test_unsupported : answer .none .locked [0x3E] =
      some ⟨[fr 3 0x7F 0x3E 0x11 0 0 0 0], .rxIdle, .none, .locked, none⟩ ∧
    answer .none .locked [0x3F, 0, 0] = some ⟨[fr 3 0x7F 0x3F 0x11 0 0 0 0], .rxIdle, .none, .locked, none⟩ := by decide
/-- V-DSC-4. -/
theorem test_dsc01 : answer .extended .unlocked [0x10, 1] =
    some ⟨[fr 2 0x50 1 0 0 0 0 0], .rxIdle, .default, .locked, none⟩ := by decide
/-- V-DSC-3, V-DSC-9. -/
theorem test_dsc02 : answer .extended .unlocked [0x10, 2] =
      some ⟨[fr 2 0x50 2 0 0 0 0 0], .rxIdle, .extended, .locked, none⟩ ∧
    answer .none .locked [0x10, 2, 0xFF, 0xFF, 0xFF, 0xFF, 0xFF] =
      some ⟨[fr 2 0x50 2 0 0 0 0 0], .rxIdle, .extended, .locked, none⟩ := by decide
/-- V-DSC-7, V-DSC-8. -/
theorem test_dscOther : answer .extended .unlocked [0x10, 3] =
      some ⟨[fr 3 0x7F 0x10 0x12 0 0 0 0], .rxIdle, .extended, .unlocked, none⟩ ∧
    answer .none .locked [0x10, 0x81] = some ⟨[fr 3 0x7F 0x10 0x12 0 0 0 0], .rxIdle, .none, .locked, none⟩ := by decide
/-- V-SA-3, V-SA-13. -/
theorem test_saSeed : answer .extended .unlocked [0x27, 1] =
      some ⟨[fr 6 0x67 1 0x53 0x5F 0xA3 0x85 0], .rxIdle, .extended, .seedIssued, none⟩ ∧
    answer .none .locked [0x27, 1] = some ⟨[fr 3 0x7F 0x27 0x7E 0 0 0 0], .rxIdle, .none, .locked, none⟩ := by decide
/-- V-SA-5. -/
theorem test_saKey_unlocks : answer .extended .seedIssued [0x27, 2, 0xFF, 0xFF, 0xFF, 0x85] =
    some ⟨[fr 2 0x67 2 0 0 0 0 0], .rxIdle, .extended, .unlocked, none⟩ := by decide
/-- V-SA-6, V-SA-8, V-SA-12, V-SA-14: invalid key, wrong length, wrong sequence, wrong session. -/
theorem test_saKey_refusals :
    answer .extended .seedIssued [0x27, 2, 0x53, 0x5F, 0xA3, 0x84] =
      some ⟨[fr 3 0x7F 0x27 0x35 0 0 0 0], .rxIdle, .extended, .seedIssued, none⟩ ∧
    answer .extended .seedIssued [0x27, 2, 0, 0, 0, 0x85, 0x85] =
      some ⟨[fr 3 0x7F 0x27 0x13 0 0 0 0], .rxIdle, .extended, .seedIssued, none⟩ ∧
    answer .extended .unlocked [0x27, 2, 0, 0, 0, 0x85] =
      some ⟨[fr 3 0x7F 0x27 0x24 0 0 0 0], .rxIdle, .extended, .unlocked, none⟩ ∧
    answer .default .locked [0x27, 2, 0, 0, 0, 0x85] =
      some ⟨[fr 3 0x7F 0x27 0x7E 0 0 0 0], .rxIdle, .default, .locked, none⟩ := by decide
/-- V-SA-15, V-SA-18. -/
theorem test_saOther : answer .none .locked [0x27, 3] =
      some ⟨[fr 3 0x7F 0x27 0x12 0 0 0 0], .rxIdle, .none, .locked, none⟩ ∧
    answer .extended .seedIssued [0x27, 0x82, 0, 0, 0, 0x85] =
      some ⟨[fr 3 0x7F 0x27 0x12 0 0 0 0], .rxIdle, .extended, .seedIssued, none⟩ := by decide
/-- V-RM-30, P2: the last byte of the image in a single frame; ten bytes behind a first frame. -/
theorem test_rmba_reads : answer .extended .unlocked [0x23, 0x21, 0x10, 0x1F, 1] =
      some ⟨[fr 2 0x63 0x1F 0 0 0 0 0], .rxIdle, .extended, .unlocked, none⟩ ∧
    answer .extended .unlocked (Script.readRequest 2 2 0x1004 0x0A) =
      some ⟨[fr 0x10 0x0B 0x63 4 5 6 7 8], .txWaitFc, .extended, .unlocked, none⟩ := by decide
/-- V-RM-31, V-RM-14, E7-lit, V-RM-33, V-RM-34. -/
theorem test_rmba_refusals :
    answer .extended .unlocked [0x23, 0x21, 0x10, 0x1F, 2] =
      some ⟨[fr 3 0x7F 0x23 0x31 0 0 0 0], .rxIdle, .extended, .unlocked, none⟩ ∧
    answer .extended .unlocked [0x23, 0x21, 0x10, 0x20, 0] =
      some ⟨[fr 1 0x63 0 0 0 0 0 0], .rxIdle, .extended, .unlocked, none⟩ ∧
    answer .extended .unlocked [0x23, 0x12, 0x10, 0, 0, 4] =
      some ⟨[fr 3 0x7F 0x23 0x13 0 0 0 0], .rxIdle, .extended, .unlocked, none⟩ ∧
    answer .extended .seedIssued [0x23, 0xFF] =
      some ⟨[fr 3 0x7F 0x23 0x33 0 0 0 0], .rxIdle, .extended, .seedIssued, none⟩ ∧
    answer .default .locked [0x23, 0xFF] =
      some ⟨[fr 3 0x7F 0x23 0x7F 0 0 0 0], .rxIdle, .default, .locked, none⟩ := by decide

/-! ## Responses -/

/-- R157, R158: E10, V-TX-4. -/
theorem test_responses :
    shown (exec (.posDsc 1) (idle .default .locked [])) = some ⟨[fr 2 0x50 1 0 0 0 0 0], .rxIdle, .default, .locked, none⟩ ∧
    shown (exec (.posRmba []) (idle .extended .unlocked [])) =
      some ⟨[fr 1 0x63 0 0 0 0 0 0], .rxIdle, .extended, .unlocked, none⟩ ∧
    shown (exec .posSaSeed (idle .extended .seedIssued [])) =
      some ⟨[fr 6 0x67 1 0x53 0x5F 0xA3 0x85 0], .rxIdle, .extended, .seedIssued, none⟩ ∧
    shown (exec .posSaKey (idle .extended .unlocked [])) =
      some ⟨[fr 2 0x67 2 0 0 0 0 0], .rxIdle, .extended, .unlocked, none⟩ ∧
    shown (exec (.neg 0x23 .requestOutOfRange) (idle .extended .unlocked [])) =
      some ⟨[fr 3 0x7F 0x23 0x31 0 0 0 0], .rxIdle, .extended, .unlocked, none⟩ := by decide

/-- R87's own example: `RMBA 2.2 1000 0004` is `RAW 06 23 22 10 00 00 04 00`. -/
theorem test_script : Script.msg (Script.readRequest 2 2 0x1000 4) = [.frame (fr 6 0x23 0x22 0x10 0 0 4 0)] ∧
    Script.msg (Script.dsc 2) = [.frame (fr 2 0x10 2 0 0 0 0 0)] ∧
    Script.msg Script.seedRequest = [.frame (fr 2 0x27 1 0 0 0 0 0)] ∧
    Script.msg (Script.keyRequest 0 0 0 0x85) = [.frame (fr 6 0x27 2 0 0 0 0x85 0)] := by decide

/-- The host's fetch: a table word's instruction runs as the first step. -/
theorem test_fetch : shown (step (State.reset.withFetchWord 16 0x1002)) =
    some ⟨[fr 2 0x50 2 0 0 0 0 0], .rxIdle, .extended, .locked, none⟩ := by decide

/-! ## Witnesses: for every statement with hypotheses, a state and operands that meet all of them

One theorem a statement, named after it; a statement of several clauses has a witness for each, at a boundary value. -/

/-- `(2, 2)` waiting for a leading frame, reached by P1. -/
def unlocked : State := idle .extended .unlocked []

theorem wit_DecodeOfEncodeIsTheInstruction :
    (wellFormed (.ffTx (List.replicate 4095 0)) = true ∧ admits (.tx (List.replicate 4095 0)) (.ffTx (List.replicate 4095 0)) = true) ∧
    (wellFormed (.unsupported 0x3F []) = true ∧ admits .req (.unsupported 0x3F []) = true) ∧
    wellFormed (.cf 15 ⟨1, 2, 3, 4, 5, 6, 7⟩) = true ∧ admits (.rxCf 15) (.cf 15 ⟨1, 2, 3, 4, 5, 6, 7⟩) = true := by
  simp only [wellFormed, admits, List.length_replicate, beq_self_eq_true]; decide

theorem wit_EncodeOfDecodeIsTheBytes :
    decode .rsp [0x7F, 0x3F, 0x11] = .ok (.neg 0x3F .serviceNotSupported) ∧
    decode (.tx [1, 2, 3, 4, 5, 6, 7, 8]) [0x10, 0x08, 1, 2, 3, 4, 5, 6] = .ok (.ffTx [1, 2, 3, 4, 5, 6, 7, 8]) := by decide

theorem wit_FramesDecodeByPhase :
    (idle .none .locked []).phase = .rxIdle ∧ hi (0x0F : Byte) = 0 ∧ hi (0x1F : Byte) = 1 ∧ hi (0x2F : Byte) = 2 ∧
    hi (0x30 : Byte) = 3 ∧ (4 ≤ (hi (0x40 : Byte)).toNat ∧ (hi (0x7F : Byte)).toNat ≤ 7) ∧ 8 ≤ (hi (0x80 : Byte)).toNat ∧
    ((inCf .none .locked []).phase = .rxCf ∧ (0x21 : Byte) = 0x20#8 + (inCf .none .locked []).rxSeq.setWidth 8 ∧
      (0x22 : Byte) ≠ 0x20#8 + (inCf .none .locked []).rxSeq.setWidth 8) ∧
    ((waitFc []).phase = .txWaitFc ∧ (0x31 : Byte) ≠ 0x30) ∧ (takeClosed unlocked).phase = .closed := by decide

theorem wit_SingleFrameIsSent : ([1, 2, 3, 4, 5, 6, 7] : List Byte).length ≤ 7 := by decide

theorem wit_FirstFrameIsSentAndHeld :
    8 ≤ (List.replicate 8 (0 : Byte)).length ∧ (List.replicate 4095 (0 : Byte)).length ≤ 4095 := by
  simp only [List.length_replicate]; decide

theorem wit_WriteSplitsOnLength :
    (List.replicate 7 (0 : Byte)).length ≤ 7 ∧ 7 < (List.replicate 8 (0 : Byte)).length ∧
    (List.replicate 4095 (0 : Byte)).length ≤ 4095 := by
  simp only [List.length_replicate]; decide

theorem wit_WriteOfMoreThan4095BytesIsRefused : 4095 < (List.replicate 4096 (0 : Byte)).length := by
  simp only [List.length_replicate]; decide

theorem wit_FlowControlReleasesTheWholeBurst : (waitFc []).txBuf.length = (waitFc []).txLen.toNat := by decide

theorem wit_FlowControlIsAcceptedByItsFirstByte :
    (waitFc [.frame (fr 0x30 8 0x7F 0 0 0 0 0)]).phase = .txWaitFc ∧
    (waitFc [.frame (fr 0x30 8 0x7F 0 0 0 0 0)]).inbox = .frame (fr 0x30 8 0x7F 0 0 0 0 0) :: [] ∧
    (fr 0x30 8 0x7F 0 0 0 0 0).b0 = 0x30 := by decide

/-- Both clauses: a first frame taken in RX_IDLE, and none. -/
theorem wit_FlowControlIsSentOncePerFirstFrame :
    ((∃ t, step (idle .none .locked [Script.ff 6 ⟨0x10, 2, 0, 0, 0, 0⟩]) = .next t) ∧
      ∃ f q, (idle .none .locked [Script.ff 6 ⟨0x10, 2, 0, 0, 0, 0⟩]).phase = .rxIdle ∧
        (idle .none .locked [Script.ff 6 ⟨0x10, 2, 0, 0, 0, 0⟩]).inbox = .frame f :: q ∧ hi f.b0 = 1) ∧
    (∃ t, step unlocked = .next t) ∧
      ¬ ∃ f q, unlocked.phase = .rxIdle ∧ unlocked.inbox = .frame f :: q ∧ hi f.b0 = 1 :=
  ⟨⟨⟨_, rfl⟩, _, _, rfl, rfl, rfl⟩, ⟨_, rfl⟩, fun ⟨_, _, _, h, _⟩ => nomatch h⟩

theorem wit_TimeoutsByPhase :
    (idle .none .locked [.timeout]).inbox = .timeout :: [] ∧ (idle .none .locked [.timeout]).phase = .rxIdle ∧
    (inCf .none .locked [.timeout]).inbox = .timeout :: [] ∧ (inCf .none .locked [.timeout]).phase = .rxCf ∧
    (waitFc [.timeout]).inbox = .timeout :: [] ∧ (waitFc [.timeout]).phase = .txWaitFc := by decide

theorem wit_InvalidLeadingFrameIsDropped :
    (idle .none .locked [Script.cf 1 []]).phase = .rxIdle ∧
    (idle .none .locked [Script.cf 1 []]).inbox = .frame (fr 0x21 0 0 0 0 0 0 0) :: [] ∧
    1 < (hi (fr 0x21 0 0 0 0 0 0 0).b0).toNat := by decide

theorem wit_SequenceMismatchAbandonsTheMessage :
    (inCf .none .locked [Script.cf 2 []]).phase = .rxCf ∧
    (inCf .none .locked [Script.cf 2 []]).inbox = .frame (fr 0x22 0 0 0 0 0 0 0) :: [] ∧
    (0x22 : Byte) ≠ 0x20#8 + (inCf .none .locked [Script.cf 2 []]).rxSeq.setWidth 8 := by decide

theorem wit_FlowControlMismatchAbandonsTheResponse :
    (waitFc [.frame (fr 0x31 0 0 0 0 0 0 0)]).phase = .txWaitFc ∧
    (waitFc [.frame (fr 0x31 0 0 0 0 0 0 0)]).inbox = .frame (fr 0x31 0 0 0 0 0 0 0) :: [] ∧
    (fr 0x31 0 0 0 0 0 0 0).b0 ≠ 0x30 := by decide

theorem wit_ClosureIsAbsorbing :
    (waitFc [.closed]).phase ≠ .closed ∧ (waitFc [.closed]).inbox = .closed :: [] ∧
    (takeClosed (idle .extended .locked [Script.sf [0x10, 2]])).phase = .closed := by decide

theorem wit_WithoutAnEventNothingChanges : unlocked.inbox = [] := rfl

theorem wit_TransportFaultsTouchNothingElse :
    ∃ t, step (waitFc [.timeout]) = .next t ∧ t.tfault ≠ none := ⟨_, rfl, nofun⟩

theorem wit_NothingIsSentUnlessAFrameIsTaken :
    ∃ t, step (idle .none .locked [Script.sf [0x27]]) = .next t ∧ t.out ≠ [] := ⟨_, rfl, nofun⟩

theorem wit_NonRequestsAreDiscarded : (0x3F : Byte) < 0x40 ∧ (0x3F : Byte) < 0xFF := by decide

theorem wit_UnsupportedServiceAnswers11 :
    (0x3F : Byte) ≤ 0x3F ∧ (0x3F : Byte) ≠ 0x10 ∧ (0x3F : Byte) ≠ 0x23 ∧ (0x3F : Byte) ≠ 0x27 := by decide

theorem wit_OneByteRequestAnswers13 : (0x27 : Byte) = 0x10 ∨ (0x27 : Byte) = 0x23 ∨ (0x27 : Byte) = 0x27 := by decide

theorem wit_PositiveResponsesAreWritten :
    (List.replicate 6 (0 : Byte)).length ≤ 6 ∧ 7 ≤ (List.replicate 7 (0 : Byte)).length ∧
    (List.replicate 4094 (0 : Byte)).length ≤ 4094 := by
  simp only [List.length_replicate]; decide

theorem wit_DispatchRunsTheDecodedRequest : decode .req [0x27, 1] = .ok (.saSeed []) := by decide

theorem wit_SessionControlSelectsAndLocks : (0x03 : Byte) ≠ 0x01 ∧ (0x03 : Byte) ≠ 0x02 := by decide

theorem wit_SeedRequestIssuesTheSeed : unlocked.session = .extended := rfl

theorem wit_RightKeyUnlocks :
    (idle .extended .seedIssued []).session = .extended ∧ (idle .extended .seedIssued []).lock = .seedIssued := ⟨rfl, rfl⟩

/-- One state for each clause. -/
theorem wit_SecurityAccessRefusesInOrder :
    (idle .default .locked []).session ≠ .extended ∧ (unlocked.session = .extended ∧ unlocked.lock ≠ .seedIssued) ∧
    ((idle .extended .seedIssued []).session = .extended ∧ (idle .extended .seedIssued []).lock = .seedIssued ∧
      ([0, 0, 0, 0x85, 0x85] : List Byte).length ≠ 4 ∧ (0x84 : Byte) ≠ 0x85) := by decide

theorem wit_OtherSecuritySubFunctionAnswers12 : (0x00 : Byte) ≠ 0x01 ∧ (0x00 : Byte) ≠ 0x02 := by decide

/-- One state for each clause. -/
theorem wit_ReadMemoryRefusesInOrder :
    (idle .default .locked []).session ≠ .extended ∧
    ((idle .extended .seedIssued []).session = .extended ∧ (idle .extended .seedIssued []).lock ≠ .unlocked) ∧
    (unlocked.session = .extended ∧ unlocked.lock = .unlocked ∧
      ([0x10, 0, 0] : List Byte).length ≠ (2 : Nibble).toNat + (2 : Nibble).toNat) := by decide

/-- One byte past the end of the image (V-RM-13), and one below MEM_BASE (V-RM-3). -/
theorem wit_ReadMemoryOutOfRangeAnswers31 :
    unlocked.session = .extended ∧ unlocked.lock = .unlocked ∧
    ([0x10, 0x1F, 0x02] : List Byte).length = (2 : Nibble).toNat + (1 : Nibble).toNat ∧
    ¬ (be [0x02] ≤ 0xFFE ∧ 0x1000 ≤ be [0x10, 0x1F] ∧ be [0x10, 0x1F] + be [0x02] ≤ 0x1000 + unlocked.mem.fwLen) ∧
    ¬ (be [0x01] ≤ 0xFFE ∧ 0x1000 ≤ be [0x0F, 0xFF] ∧ be [0x0F, 0xFF] + be [0x01] ≤ 0x1000 + unlocked.mem.fwLen) := by
  decide

/-- The last byte of the image (V-RM-12), six bytes (one frame), seven bytes (two frames), and none (V-RM-14). -/
theorem wit_ReadMemoryReturnsTheFirmwareBytes :
    unlocked.session = .extended ∧ unlocked.lock = .unlocked ∧ unlocked.mem.wf = true ∧
    (([0x10, 0x1F, 0x01] : List Byte).length = (2 : Nibble).toNat + (1 : Nibble).toNat ∧ be [0x10, 0x1F] = 0x101F ∧
      be [0x01] = 1 ∧ 0x101F + 1 ≤ 0x1000 + unlocked.mem.fwLen) ∧
    (be [0x10, 0x1A] = 0x101A ∧ be [0x06] = 6 ∧ 0x101A + 6 ≤ 0x1000 + unlocked.mem.fwLen) ∧
    (be [0x10, 0x19] = 0x1019 ∧ be [0x07] = 7 ∧ 0x1019 + 7 ≤ 0x1000 + unlocked.mem.fwLen) ∧
    (be [0x10, 0x20] = 0x1020 ∧ be [0x00] = 0 ∧ 0x1020 + 0 ≤ 0x1000 + unlocked.mem.fwLen) := by decide

theorem wit_FirstFrameStartsOrDelivers : 6 < (7 : BitVec 12).toNat ∧ (6 : BitVec 12).toNat ≤ 6 := by decide

theorem wit_ConsecutiveFrameExtendsOrDelivers :
    ((inCf .none .locked [Script.cf 1 []]).phase = .rxCf ∧
      (inCf .none .locked [Script.cf 1 []]).inbox = .frame (fr 0x21 0 0 0 0 0 0 0) :: [] ∧
      (0x21 : Byte) = 0x20#8 + (inCf .none .locked [Script.cf 1 []]).rxSeq.setWidth 8) ∧
    ((inCf .none .locked []).rxBuf.length = (inCf .none .locked []).rxLen.toNat ∧
      (inCf .none .locked []).rxLen.toNat + 7 ≤ 4101 ∧
      (inCf .none .locked []).rxSize.toNat ≤ (inCf .none .locked []).rxLen.toNat + 7) ∧
    (inCf .none .locked []).rxLen.toNat + 7 < ({ inCf .none .locked [] with rxSize := 14 } : State).rxSize.toNat := by
  decide

theorem wit_ReassemblyOverflowFaults : 4101 < ({ unlocked with rxLen := 4095 } : State).rxLen.toNat + 7 := by decide

/-- P3: declared size 13, one consecutive frame. -/
theorem wit_ReassemblyDeliversAllDataBytes :
    (idle .extended .unlocked [Script.ff 13 ⟨0x23, 0x47, 0, 0, 0x10, 0⟩, Script.cf 1 [0, 0, 0, 0, 0, 0, 2]]).phase = .rxIdle ∧
    6 < (13 : BitVec 12).toNat ∧ ([⟨0, 0, 0, 0, 0, 0, 2⟩] : List Seven).length = consecutiveCount (13 : BitVec 12).toNat ∧
    (idle .extended .unlocked [Script.ff 13 ⟨0x23, 0x47, 0, 0, 0x10, 0⟩, Script.cf 1 [0, 0, 0, 0, 0, 0, 2]]).inbox =
      .frame (frameOfSix (firstFrameByte0 13) (firstFrameByte1 13) ⟨0x23, 0x47, 0, 0, 0x10, 0⟩) ::
        (([⟨0, 0, 0, 0, 0, 0, 2⟩] : List Seven).mapIdx fun j e =>
          Event.frame ⟨0x20#8 + BitVec.ofNat 8 ((j + 1) % 16), e⟩) ++ [] := by decide

/-- E1, n = 8: a first frame and one consecutive frame. -/
theorem wit_WriteThenReadRoundTrip :
    (idle .none .locked (Script.msg [1, 2, 3, 4, 5, 6, 7, 8])).phase = .rxIdle ∧
    ([1, 2, 3, 4, 5, 6, 7, 8] : List Byte).length ≤ 4095 ∧
    (idle .none .locked (Script.msg [1, 2, 3, 4, 5, 6, 7, 8])).inbox = Script.msg [1, 2, 3, 4, 5, 6, 7, 8] ++ [] ∧
    (Script.msg [1, 2, 3, 4, 5, 6, 7, 8]).length = 2 := by decide

/-- One state for each receiving phase. -/
theorem wit_StepRunsTheDecodedFrame :
    (receiveContext (idle .none .locked [Script.sf [0x10]]) = some .rxIdle ∧
      decode .rxIdle (fr 1 0x10 0 0 0 0 0 0).bytes = .ok (.sf 1 ⟨0x10, 0, 0, 0, 0, 0, 0⟩) ∧
      (idle .none .locked [Script.sf [0x10]]).inbox = .frame (fr 1 0x10 0 0 0 0 0 0) :: []) ∧
    (receiveContext (inCf .none .locked []) = some (.rxCf 1) ∧
      decode (.rxCf 1) (fr 0x21 0 0 0 0 0 0 0).bytes = .ok (.cf 1 ⟨0, 0, 0, 0, 0, 0, 0⟩)) ∧
    receiveContext (waitFc []) = some .txWaitFc ∧
      decode .txWaitFc (fr 0x30 0 0 0 0 0 0 0).bytes = .ok (.fc ⟨0, 0, 0, 0, 0, 0, 0⟩) := by decide

/-- A frame word and a request word. -/
theorem wit_FetchedWordRunsItsInstruction :
    decodeTableWord 64 0x0210020000000000 = some (.sf 2 ⟨0x10, 2, 0, 0, 0, 0, 0⟩) ∧
    decodeTableWord 16 0x1002 = some (.dsc02 []) := by decide

/-- A request that leaves session and lock, one that goes out as a first frame, and one that leaves TX_WAIT_FC alone. -/
theorem wit_MessageInstructionsFrame :
    (isMessage (.saKey [0, 0, 0, 0x84]) = true ∧ ∃ t, exec (.saKey [0, 0, 0, 0x84]) (idle .extended .seedIssued []) = .next t) ∧
    (isMessage (.rmba 2 1 [0x10, 0, 7]) = true ∧ ∃ t, exec (.rmba 2 1 [0x10, 0, 7]) unlocked = .next t) ∧
    isMessage .empty = true ∧ ∃ t, exec .empty unlocked = .next t ∧ t.phase ≠ .txWaitFc :=
  ⟨⟨rfl, _, rfl⟩, ⟨rfl, _, rfl⟩, rfl, _, rfl, nofun⟩

theorem wit_ReceivedDataFramesFrame :
    (∃ t, exec (.sf 2 ⟨0x10, 2, 0, 0, 0, 0, 0⟩) unlocked = .next t ∧ t.phase ≠ .txWaitFc) ∧
    (∃ t, exec (.ff 6 ⟨0x10, 2, 0, 0, 0, 0⟩) unlocked = .next t) ∧
    ∃ t, exec (.cf 1 ⟨0, 0, 0, 0, 0, 0, 2⟩) (inCf .extended .unlocked []) = .next t :=
  ⟨⟨_, rfl, nofun⟩, ⟨_, rfl⟩, _, rfl⟩

theorem wit_TransportInstructionsFrame :
    (∃ t, exec (.sfTx [1]) unlocked = .next t) ∧ (∃ t, exec (.ffTx [1, 2, 3, 4, 5, 6, 7, 8]) unlocked = .next t) ∧
    (∃ t, exec (.fc ⟨0, 0, 0, 0, 0, 0, 0⟩) (waitFc []) = .next t) ∧
    ∃ t, exec (.cfMismatch (fr 0 0 0 0 0 0 0 0)) (inCf .none .locked []) = .next t :=
  ⟨⟨_, rfl⟩, ⟨_, rfl⟩, ⟨_, rfl⟩, _, rfl⟩

/-- The invariant holds in a state of each of the three waiting phases, and after reset. -/
theorem wit_NoRunStops :
    StateInv (State.resetWith fwT) ∧ StateInv (inCf .none .locked []) ∧ StateInv (waitFc []) :=
  ⟨⟨by decide, wf_ofImage fwT, nofun, nofun⟩, ⟨by decide, wf_ofImage fwT, fun _ => by decide, nofun⟩,
    ⟨by decide, wf_ofImage fwT, nofun, fun _ => by decide⟩⟩

theorem wit_EveryStepKeepsTheInvariant : StateInv (waitFc [Script.fc]) ∧ ∃ t, step (waitFc [Script.fc]) = .next t :=
  ⟨⟨by decide, wf_ofImage fwT, nofun, fun _ => by decide⟩, _, rfl⟩

/-- All four moves (R242), each by its delivered message. -/
theorem wit_PrivilegeChangesOnlyByTheFourMoves :
    (∃ t, step (idle .none .locked [Script.sf [0x10, 1]]) = .next t ∧ (t.session, t.lock) ≠ (.none, .locked)) ∧
    (∃ t, step (idle .none .locked [Script.sf [0x10, 2]]) = .next t ∧ (t.session, t.lock) ≠ (.none, .locked)) ∧
    (∃ t, step (idle .extended .locked [Script.sf [0x27, 1]]) = .next t ∧ (t.session, t.lock) ≠ (.extended, .locked)) ∧
    ∃ t, step (idle .extended .seedIssued [Script.sf [0x27, 2, 0, 0, 0, 0x85]]) = .next t ∧
      (t.session, t.lock) ≠ (.extended, .seedIssued) :=
  ⟨⟨_, rfl, by decide⟩, ⟨_, rfl, by decide⟩, ⟨_, rfl, by decide⟩, _, rfl, by decide⟩

theorem wit_UnlockingTakesTheKey :
    ∃ t, step (idle .extended .seedIssued [Script.sf [0x27, 2, 0, 0, 0, 0x85]]) = .next t ∧
      (idle .extended .seedIssued []).lock ≠ .unlocked ∧ t.lock = .unlocked := ⟨_, rfl, by decide, by decide⟩

theorem wit_FirmwareIsNeverWritten :
    (∃ t, exec (.rmba 2 1 [0x10, 0, 7]) unlocked = .next t) ∧ ∃ t, step (waitFc [Script.fc]) = .next t :=
  ⟨⟨_, rfl⟩, _, rfl⟩

theorem wit_LockedBlockRevealsNoFirmware :
    ¬ ((idle .extended .seedIssued []).session = .extended ∧ (idle .extended .seedIssued []).lock = .unlocked) ∧
    ∃ t, step (idle .extended .seedIssued [Script.sf [0x23, 0x21, 0x10, 0, 1]]) = .next t := ⟨by decide, _, rfl⟩

theorem wit_OnlyALongReadWaitsForFlowControl :
    ∃ t, step (idle .extended .unlocked [Script.sf [0x23, 0x21, 0x10, 0, 7]]) = .next t ∧
      unlocked.phase ≠ .txWaitFc ∧ t.phase = .txWaitFc := ⟨_, rfl, by decide, by decide⟩

theorem wit_SentFramesAreOfTheFourTypes :
    ∃ t, step (waitFc [Script.fc]) = .next t ∧ fr 0x21 9 0x0A 0x0B 0x0C 0x0D 0 0 ∈ t.out := ⟨_, rfl, by decide⟩

/-- A frame of each kind with a condition (the shortest first frame and the shortest single frame), and a response of each. -/
theorem wit_SentBytesDecodeByTheirRow :
    (decode (.tx []) (fr 0 0 0 0 0 0 0 0).bytes = .ok (.sfTx []) ∧
      firstRow (.tx []) (frameWord (fr 0 0 0 0 0 0 0 0)) 8 = some (tableRow (.sfTx [])) ∧
      ∀ j < 7, (lo (0 : Byte)).toNat ≤ j → (fr 0 0 0 0 0 0 0 0).rest.toList[j]? = some 0) ∧
    (firstRow (.tx [1, 2, 3, 4, 5, 6, 7, 8]) (frameWord (fr 0x10 8 1 2 3 4 5 6)) 8 = some (tableRow (.ffTx [])) ∧
      ([1, 2, 3, 4, 5, 6, 7, 8] : List Byte).length = (lo (0x10 : Byte)).toNat * 256 + (8 : Byte).toNat ∧
      ([1, 2, 3, 4, 5, 6, 7, 8] : List Byte).take 6 = (sixOf (fr 0x10 8 1 2 3 4 5 6).rest).toList) ∧
    decode .rsp [0x63] = .ok (.posRmba []) ∧
    firstRow .rsp (messageWord [0x50, 0x02]) 2 = some (tableRow (.posDsc 2)) ∧
    firstRow .rsp (messageWord [0x67, 0x01, 0x53, 0x5F, 0xA3, 0x85]) 6 = some (tableRow .posSaSeed) ∧
    (firstRow .rsp (messageWord [0x7F, 0x3F, 0x11]) 3 = some (tableRow (.neg 0x3F .serviceNotSupported)) ∧
      (0x3F : Byte) ≤ 0x3F ∧ nrcName 0x11 = some .serviceNotSupported) := by decide

end Sys2Proof.Tests
end

section
/-! PROOF. The NRC table is a bijection between its nine names and their codes (10_state.md R33). -/

namespace Sys2Proof

/-- Every row that `nrcName` answers from is a row of `nrcCode`: the direction that `nrcName_nrcCode` leaves open. -/
theorem nrcCode_of_nrcName {c : Byte} {n : Nrc} (h : nrcName c = some n) : nrcCode n = c := by
  unfold nrcName at h
  split_ifs at h with hc hc hc hc hc hc hc hc hc
  all_goals
    obtain rfl := Option.some.inj h
    exact hc.symm

theorem nrcName_eq_some_iff (n : Nrc) (c : Byte) : nrcName c = some n ↔ nrcCode n = c :=
  ⟨nrcCode_of_nrcName, fun h => h ▸ nrcName_nrcCode n⟩

/-- Settles O2: the nine rows are `nrcCode`'s own equations, and `nrcName` and `nrcCode` are inverse to each other. -/
theorem nrcTableIsABijection : Obligations.NrcTableIsABijection :=
  ⟨rfl, rfl, rfl, rfl, rfl, rfl, rfl, rfl, rfl, nrcName_eq_some_iff⟩

end Sys2Proof
end

section
/-! PROOF. The block never sends a frame of type nibble 4 to 15 (30_encoding.md R76): every frame put on the output of a
step has the type nibble of its kind. -/

namespace Sys2Proof.Machine

/-- Every frame of an output list has type nibble 0, 1, 2 or 3 (R71). -/
def AllOfFourTypes (l : List Frame) : Prop := ∀ f ∈ l, (hi f.b0).toNat ≤ 3

theorem allOfFourTypes_nil : AllOfFourTypes [] := fun _ h => absurd h List.not_mem_nil

theorem AllOfFourTypes.append {l l' : List Frame} (h : AllOfFourTypes l) (h' : AllOfFourTypes l') :
    AllOfFourTypes (l ++ l') := fun f hf => (List.mem_append.1 hf).elim (h f) (h' f)

theorem AllOfFourTypes.emit {s : State} (h : AllOfFourTypes s.out) {f : Frame} (hf : (hi f.b0).toNat ≤ 3) :
    AllOfFourTypes (emit f s).out :=
  h.append fun g hg => by rwa [List.mem_singleton.1 hg]

/-! ### The type nibble of each frame the block sends (R72, R73, R75) -/

theorem hi_singleFrame (p : List Byte) : hi (singleFrame p).b0 = 0 := hi_nibbles 0 _

theorem hi_firstFrame (p : List Byte) : hi (firstFrame p).b0 = 1 := hi_firstFrameByte0 _

theorem hi_flowControlFrame : hi flowControlFrame.b0 = 3 := by decide

theorem allOfFourTypes_cfFrames (p : List Byte) : AllOfFourTypes (cfFrames p) := fun f hf => by
  rw [hi_of_mem_cfLoop hf]; decide

/-! ### The outputs -/

/-- A service effect sends nothing. -/
theorem ServiceEffect.out {s u : State} (h : ServiceEffect s u) : u.out = s.out := by rw [h.frame]

/-- The timeout sends nothing (R120, R127, R106). -/
theorem takeTimeout_out (s : State) : (takeTimeout s).out = s.out := by
  unfold takeTimeout
  split <;> rfl

/-- The engine adds at most a single frame or a first frame to what has been sent (R109). -/
theorem EngineNext.allOfFourTypes {s t : State} (h : EngineNext s t) (hs : AllOfFourTypes s.out) :
    AllOfFourTypes t.out := by
  cases h with
  | silent => exact hs
  | single hu p _ =>
    rw [← hu.out] at hs
    exact hs.emit (by rw [hi_singleFrame]; decide)
  | first data _ _ _ _ => exact hs.emit (by rw [hi_firstFrame]; decide)

/-- Every frame a step sends is of one of the four types (R76). -/
theorem StepNext.allOfFourTypes {s t : State} (h : StepNext s t) : AllOfFourTypes t.out := by
  have sentFc (q : List Event) : AllOfFourTypes (emit flowControlFrame (consume q s)).out :=
    allOfFourTypes_nil.emit (by rw [hi_flowControlFrame]; decide)
  cases h with
  | idle | leadInvalid | closure | mismatch | grows | flowMismatch => exact allOfFourTypes_nil
  | timeout q => rw [takeTimeout_out]; exact allOfFourTypes_nil
  | single _ _ _ _ _ _ _ he => exact he.allOfFourTypes allOfFourTypes_nil
  | firstDelivers _ q _ _ _ _ _ he => exact he.allOfFourTypes (sentFc q)
  | firstStarts _ q => exact sentFc q
  | completes _ _ _ _ _ _ _ _ _ he => exact he.allOfFourTypes allOfFourTypes_nil
  | burst => exact allOfFourTypes_nil.append (allOfFourTypes_cfFrames _)

/-- Settles O59: by the cases of a step. -/
theorem sentFramesAreOfTheFourTypes : Obligations.SentFramesAreOfTheFourTypes :=
  fun _ _ h => (stepNext_of_step h).allOfFourTypes

end Sys2Proof.Machine
end

section
/-! PROOF. Which instruction a received frame is, by the phase the block waits in (30_encoding.md R77). -/

namespace Sys2Proof

/-! ### The leading frames that `Laws/Step` leaves: type nibble 2, 3, 4 to 7 and 8 to 15 (R77) -/

theorem decodeLead_consecutive (f : Frame) (h : hi f.b0 = 2) : decodeLead f = .cfLead (lo f.b0) f.rest := by
  simp [decodeLead, h]

theorem decodeLead_flowControl (f : Frame) (h : hi f.b0 = 3) : decodeLead f = .fcLead (lo f.b0) f.rest := by
  simp [decodeLead, h]

/-- From type nibble 4 on, bit 7 of byte 0 alone decides between the two reserved rows (R76). -/
theorem decodeLead_reserved (f : Frame) (h : 4 ≤ (hi f.b0).toNat) :
    decodeLead f = if f.b0.extractLsb' 7 1 = 0 then .rsv47Lead (f.b0.extractLsb' 0 6) f.rest
      else .rsv8FLead (f.b0.extractLsb' 0 7) f.rest := by
  have hne (n : Nibble) (hn : n.toNat < 4) : hi f.b0 ≠ n := fun e => by rw [e] at h; omega
  rw [decodeLead, if_neg (hne 0 (by decide)), if_neg (hne 1 (by decide)), if_neg (hne 2 (by decide)),
    if_neg (hne 3 (by decide))]

/-- Bit 7 of a byte is clear exactly when its high nibble is at most 7. -/
theorem bit7_eq_zero_iff : ∀ b : Byte, b.extractLsb' 7 1 = 0 ↔ (hi b).toNat ≤ 7 := by decide

theorem decodeLead_rsv47 (f : Frame) (h4 : 4 ≤ (hi f.b0).toNat) (h7 : (hi f.b0).toNat ≤ 7) :
    decodeLead f = .rsv47Lead (f.b0.extractLsb' 0 6) f.rest := by
  rw [decodeLead_reserved f h4, if_pos ((bit7_eq_zero_iff _).2 h7)]

theorem decodeLead_rsv8F (f : Frame) (h8 : 8 ≤ (hi f.b0).toNat) :
    decodeLead f = .rsv8FLead (f.b0.extractLsb' 0 7) f.rest := by
  rw [decodeLead_reserved f (by omega), if_neg fun h => by have := (bit7_eq_zero_iff _).1 h; omega]

theorem decodeCf_expected (seq : Nibble) (f : Frame) (h : f.b0 = nibbles 2 seq) : decodeCf seq f = .cf seq f.rest :=
  if_pos h

theorem decodeCf_other (seq : Nibble) (f : Frame) (h : f.b0 ≠ nibbles 2 seq) : decodeCf seq f = .cfMismatch f := if_neg h

theorem decodeFc_cts (f : Frame) (h : f.b0 = Config.fcCts) : decodeFc f = .fc f.rest := if_pos h

theorem decodeFc_other (f : Frame) (h : f.b0 ≠ Config.fcCts) : decodeFc f = .fcMismatch f := if_neg h

end Sys2Proof

namespace Sys2Proof.Machine

/-! ### The decoder of each waiting phase (R77) -/

theorem frameStimulus_rxIdle (s : State) (f : Frame) (h : s.phase = .rxIdle) : frameStimulus s f = .run (decodeLead f) := by
  rw [frameStimulus, h]

theorem frameStimulus_rxCf (s : State) (f : Frame) (h : s.phase = .rxCf) :
    frameStimulus s f = .run (decodeCf s.rxSeq f) := by rw [frameStimulus, h]

theorem frameStimulus_txWaitFc (s : State) (f : Frame) (h : s.phase = .txWaitFc) :
    frameStimulus s f = .run (decodeFc f) := by rw [frameStimulus, h]

/-- In CLOSED no event is taken (R236). -/
theorem takeEvent_closed (s : State) (h : s.phase = .closed) : takeEvent s = (.idle, beginStep s) := by
  rw [takeEvent, h]

/-- Settles O6: each waiting phase has its decoder, and each decoder its cases. -/
theorem framesDecodeByPhase : Obligations.FramesDecodeByPhase := by
  intro s f
  refine ⟨fun hp h => ?_, fun hp h => ?_, fun hp h => ?_, fun hp h => ?_, fun hp h4 h7 => ?_, fun hp h => ?_,
    fun hp h => ?_, fun hp h => ?_, fun hp h => ?_, fun hp h => ?_, takeEvent_closed s⟩
  · rw [frameStimulus_rxIdle s f hp, decodeLead_single f h]
  · rw [frameStimulus_rxIdle s f hp, decodeLead_first f h]
  · rw [frameStimulus_rxIdle s f hp, decodeLead_consecutive f h]
  · rw [frameStimulus_rxIdle s f hp, decodeLead_flowControl f h]
  · rw [frameStimulus_rxIdle s f hp, decodeLead_rsv47 f h4 h7]
  · rw [frameStimulus_rxIdle s f hp, decodeLead_rsv8F f h]
  · rw [frameStimulus_rxCf s f hp, decodeCf_expected _ f (by rwa [nibbles_two])]
  · rw [frameStimulus_rxCf s f hp, decodeCf_other _ f (by rwa [nibbles_two])]
  · rw [frameStimulus_txWaitFc s f hp, decodeFc_cts f h]
  · rw [frameStimulus_txWaitFc s f hp, decodeFc_other f h]

end Sys2Proof.Machine
end

section
/-! PROOF. How a row of the opcode table tests a word (30_encoding.md R88): the masked-word test of a frame or a message,
read byte by byte, and the row's length bounds. -/

namespace Sys2Proof

/-! ### Masked words, byte by byte (R13) -/

/-- Joined bit fields are equal exactly when the fields are. -/
theorem bits_append_eq_append_iff {n k : Nat} {a b : BitVec n} {c d : BitVec k} : a ++ c = b ++ d ↔ a = b ∧ c = d := by
  refine ⟨fun h => ?_, fun ⟨hab, hcd⟩ => by rw [hab, hcd]⟩
  have hc : c = d := by simpa only [BitVec.setWidth_append_eq_right] using congrArg (BitVec.setWidth k) h
  rw [hc, BitVec.append_left_inj] at h
  exact ⟨h, hc⟩

/-- The word of a frame determines the frame. -/
theorem frameWord_inj {f g : Frame} : frameWord f = frameWord g ↔ f = g := by
  refine ⟨fun h => ?_, congrArg frameWord⟩
  obtain ⟨_, ⟨⟩⟩ := f
  obtain ⟨_, ⟨⟩⟩ := g
  unfold frameWord at h
  iterate 7 rw [bits_append_eq_append_iff] at h
  simpa only [Frame.mk.injEq, Seven.mk.injEq, and_assoc] using h

/-- The bytes of `f` under the mask bytes of `m`. -/
def maskFrame (f m : Frame) : Frame :=
  ⟨f.b0 &&& m.b0, ⟨f.rest.b1 &&& m.rest.b1, f.rest.b2 &&& m.rest.b2, f.rest.b3 &&& m.rest.b3, f.rest.b4 &&& m.rest.b4,
    f.rest.b5 &&& m.rest.b5, f.rest.b6 &&& m.rest.b6, f.rest.b7 &&& m.rest.b7⟩⟩

theorem frameWord_and (f m : Frame) : frameWord f &&& frameWord m = frameWord (maskFrame f m) := by
  unfold frameWord
  iterate 7 rw [BitVec.and_append]
  rfl

/-- The frame whose byte 0 is `b`, all other bytes zero: as a word, a mask or a pattern for byte 0 alone. -/
def byte0Frame (b : Byte) : Frame := ⟨b, ⟨0, 0, 0, 0, 0, 0, 0⟩⟩

/-- A mask on byte 0 tests byte 0 alone. -/
theorem frameWord_and_byte0 (f : Frame) (mask pattern : Byte) :
    frameWord f &&& frameWord (byte0Frame mask) = frameWord (byte0Frame pattern) ↔ f.b0 &&& mask = pattern := by
  rw [frameWord_and, frameWord_inj]
  simp [maskFrame, byte0Frame]

/-- A mask on the first two bytes of a message tests those two. -/
theorem messageWord_and (m : List Byte) (mask0 mask1 pattern0 pattern1 : Byte) :
    messageWord m &&& messageWord [mask0, mask1] = messageWord [pattern0, pattern1] ↔
      m.getD 0 0 &&& mask0 = pattern0 ∧ m.getD 1 0 &&& mask1 = pattern1 := by
  unfold messageWord
  rw [BitVec.and_append, BitVec.and_append, bits_append_eq_append_iff, bits_append_eq_append_iff]
  simp

/-! ### The tests on one byte (R71, R72) -/

theorem and_typeMask (b : Byte) (n : Nibble) : b &&& 0xF0 = nibbles n 0 ↔ hi b = n := by
  have masked : ∀ b : Byte, b &&& 0xF0 = nibbles (hi b) 0 := by decide
  rw [masked]
  exact ⟨fun h => by simpa using congrArg hi h, fun h => by rw [h]⟩

theorem and_singleMask : ∀ b : Byte, b &&& 0xF8 = 0 ↔ hi b = 0 ∧ (lo b).toNat ≤ 7 := by decide

/-- The full mask tests a whole byte. -/
theorem and_byteMask (b : Byte) : b &&& 0xFF = b := BitVec.and_allOnes

/-! ### Which row applies, and which is the first (R88) -/

theorem find?_cons_ite {α : Type} (q : α → Bool) (a : α) (l : List α) :
    (a :: l).find? q = if q a = true then some a else l.find? q := by
  rw [List.find?_cons]; cases q a <;> rfl

/-- A row without dynamic test and with a greatest length: its masked word and its two length bounds decide. -/
theorem row_applies (r : Row) (c : Context) (w : BitVec 64) (n most : Nat) (hm : r.most = some most)
    (ht : r.test = .nothing) :
    (r.matchesWord w n && r.dynamicOk c w) = true ↔ w &&& r.mask = r.pattern ∧ r.least ≤ n ∧ n ≤ most := by
  simp [Row.matchesWord, Row.dynamicOk, hm, ht, and_assoc]

theorem frameRow_applies (fmt : Format) (pattern mask : BitVec 64) (c : Context) (w : BitVec 64) :
    ((frameRow fmt pattern mask).matchesWord w 8 && (frameRow fmt pattern mask).dynamicOk c w) = true ↔
      w &&& mask = pattern :=
  (row_applies (frameRow fmt pattern mask) c w 8 8 rfl rfl).trans (and_iff_left ⟨Nat.le_refl 8, Nat.le_refl 8⟩)

theorem rspRow_applies (pattern mask : BitVec 64) (least most : Nat) (c : Context) (w : BitVec 64) (n : Nat) :
    ((rspRow pattern mask least most).matchesWord w n && (rspRow pattern mask least most).dynamicOk c w) = true ↔
      w &&& mask = pattern ∧ least ≤ n ∧ n ≤ most :=
  row_applies (rspRow pattern mask least most) c w n most rfl rfl

end Sys2Proof
end

section
/-! PROOF. What the block sends decodes by the first matching row of its format (30_encoding.md R88): the decoder makes the
rows' tests in the rows' order, and rejects only what fails a field condition. -/

namespace Sys2Proof

/-! ### The first matching row of each sent format (`tableRow` does not depend on the operands) -/

/-- The first matching row of FRAME64/TX, by the type of the frame. -/
theorem firstRow_tx (p : List Byte) (f : Frame) :
    firstRow (.tx p) (frameWord f) 8 =
      if hi f.b0 = 0 ∧ (lo f.b0).toNat ≤ 7 then some (tableRow (.sfTx p))
      else if hi f.b0 = 1 then some (tableRow (.ffTx p))
      else if hi f.b0 = 2 then some (tableRow (.cfTx (lo f.b0) f.rest))
      else if f = byte0Frame Config.fcCts then some (tableRow .fcTx)
      else none := by
  have single : frameWord f &&& 0xF800000000000000 = 0 ↔ hi f.b0 = 0 ∧ (lo f.b0).toNat ≤ 7 :=
    (frameWord_and_byte0 f 0xF8 0).trans (and_singleMask f.b0)
  have first : frameWord f &&& 0xF000000000000000 = 0x1000000000000000 ↔ hi f.b0 = 1 :=
    (frameWord_and_byte0 f 0xF0 0x10).trans (and_typeMask f.b0 1)
  have consecutive : frameWord f &&& 0xF000000000000000 = 0x2000000000000000 ↔ hi f.b0 = 2 :=
    (frameWord_and_byte0 f 0xF0 0x20).trans (and_typeMask f.b0 2)
  have flowControl : frameWord f &&& 0xFFFFFFFFFFFFFFFF = 0x3000000000000000 ↔ f = byte0Frame Config.fcCts := by
    rw [show frameWord f &&& 0xFFFFFFFFFFFFFFFF = frameWord f from BitVec.and_allOnes]
    exact frameWord_inj (g := byte0Frame Config.fcCts)
  simp only [firstRow, Context.format, rows, find?_cons_ite, frameRow_applies, List.find?_nil, single, first, consecutive,
    flowControl, tableRow]

/-- The first matching row of MSG16/RSP, by the first two bytes and the length. -/
theorem firstRow_rsp (r : Byte) (body : List Byte) :
    firstRow .rsp (messageWord (r :: body)) (r :: body).length =
      if r = 0x50 ∧ body.length + 1 = 2 then some (tableRow (.posDsc r))
      else if r = 0x63 ∧ body.length + 1 ≤ 4095 then some (tableRow (.posRmba body))
      else if (r = 0x67 ∧ body.getD 0 0 = 0x01) ∧ body.length + 1 = 6 then some (tableRow .posSaSeed)
      else if (r = 0x67 ∧ body.getD 0 0 = 0x02) ∧ body.length + 1 = 2 then some (tableRow .posSaKey)
      else if r = 0x7F ∧ body.length + 1 = 3 then some (tableRow (.neg r .invalidKey))
      else none := by
  have byte0 (b : Byte) : messageWord (r :: body) &&& messageWord [0xFF, 0] = messageWord [b, 0] ↔ r = b := by
    rw [messageWord_and, and_byteMask]
    simp
  have bytes01 (b c : Byte) :
      messageWord (r :: body) &&& messageWord [0xFF, 0xFF] = messageWord [b, c] ↔ r = b ∧ body.getD 0 0 = c := by
    rw [messageWord_and, and_byteMask, and_byteMask]
    rfl
  have posDsc : messageWord (r :: body) &&& 0xFF00 = 0x5000 ↔ r = 0x50 := byte0 0x50
  have posRmba : messageWord (r :: body) &&& 0xFF00 = 0x6300 ↔ r = 0x63 := byte0 0x63
  have posSaSeed : messageWord (r :: body) &&& 0xFFFF = 0x6701 ↔ r = 0x67 ∧ body.getD 0 0 = 0x01 := bytes01 0x67 0x01
  have posSaKey : messageWord (r :: body) &&& 0xFFFF = 0x6702 ↔ r = 0x67 ∧ body.getD 0 0 = 0x02 := bytes01 0x67 0x02
  have neg : messageWord (r :: body) &&& 0xFF00 = 0x7F00 ↔ r = 0x7F := byte0 0x7F
  have exactly (k n : Nat) : (k ≤ n ∧ n ≤ k) ↔ n = k := by omega
  simp only [firstRow, Context.format, rows, find?_cons_ite, rspRow_applies, List.find?_nil, List.length_cons, exactly,
    posDsc, posRmba, posSaSeed, posSaKey, neg, tableRow, Nat.le_add_left, true_and]

/-! ### Sent frames -/

@[simp] theorem decode_tx_bytes (p : List Byte) (f : Frame) : decode (.tx p) f.bytes = decodeTx p f := rfl

/-- What a sent frame can decode to, with the row's field conditions it meets (R72 to R75). -/
inductive SentFrame (p : List Byte) (f : Frame) : Instr → Prop where
  | single (q : List Byte) (h0 : hi f.b0 = 0) (hl : (lo f.b0).toNat ≤ 7) : SentFrame p f (.sfTx q)
  | first (h1 : hi f.b0 = 1) : SentFrame p f (.ffTx p)
  | consecutive (h2 : hi f.b0 = 2) : SentFrame p f (.cfTx (lo f.b0) f.rest)
  | flowControl (hf : f = byte0Frame Config.fcCts) : SentFrame p f .fcTx

theorem eq_byte0Frame {f : Frame} {b : Byte} (hb : f.b0 = b) (hz : f.rest.toList = List.replicate 7 0) :
    f = byte0Frame b := by
  obtain ⟨_, ⟨⟩⟩ := f
  simp_all [Seven.toList, List.replicate, byte0Frame]

theorem sentFrame_of_decodeTx {p : List Byte} {f : Frame} {i : Instr} (h : decodeTx p f = .ok i) : SentFrame p f i := by
  unfold decodeTx decodeTxSingle decodeTxFirst at h
  split_ifs at h with h0 hl hz h1 hs hp h2 hb hz
  all_goals obtain rfl := Except.ok.inj h
  · exact .single _ h0 (by omega)
  · exact .first h1
  · exact .consecutive h2
  · exact .flowControl (eq_byte0Frame hb hz)

/-- A decoded sent frame matches the row it decodes to first. -/
theorem SentFrame.firstRow_eq {p : List Byte} {f : Frame} {i : Instr} (h : SentFrame p f i) :
    firstRow (.tx p) (frameWord f) 8 = some (tableRow i) := by
  rw [firstRow_tx]
  cases h with
  | single q h0 hl => rw [if_pos ⟨h0, hl⟩]; rfl
  | first h1 => simp [h1]
  | consecutive h2 => simp [h2]
  | flowControl hf => rw [hf]; rfl

/-- A single frame with zeros after its payload decodes (R72). -/
theorem decodeTx_single (p : List Byte) (f : Frame) (h0 : hi f.b0 = 0) (hl : (lo f.b0).toNat ≤ 7)
    (hz : ∀ j, (lo f.b0).toNat ≤ j → j < 7 → f.rest.toList[j]? = some 0) :
    decodeTx p f = .ok (.sfTx (f.rest.toList.take (lo f.b0).toNat)) := by
  have padded : f.rest.toList.drop (lo f.b0).toNat = List.replicate (7 - (lo f.b0).toNat) 0 := by
    apply List.ext_getElem?
    intro j
    rw [List.getElem?_drop, List.getElem?_replicate]
    split_ifs with hj
    · exact hz _ (by omega) (by omega)
    · exact List.getElem?_eq_none (by rw [length_sevenToList]; omega)
  rw [decodeTx, if_pos h0, decodeTxSingle, if_neg (by omega), if_pos padded]

/-- A first frame that declares the payload's length and carries its first six bytes decodes (R73, log 14). -/
theorem decodeTx_first (p : List Byte) (f : Frame) (h1 : hi f.b0 = 1)
    (hlen : p.length = (lo f.b0).toNat * 256 + f.rest.b1.toNat) (h8 : 8 ≤ p.length)
    (hd : p.take 6 = (sixOf f.rest).toList) : decodeTx p f = .ok (.ffTx p) := by
  rw [← firstFrameLen_toNat] at hlen
  rw [decodeTx, if_neg (by rw [h1]; decide), if_pos h1, decodeTxFirst, ← hlen,
    if_neg (show ¬ p.length ≤ 7 by omega), if_pos ⟨rfl, hd⟩]

theorem decodeTx_consecutive (p : List Byte) (f : Frame) (h2 : hi f.b0 = 2) :
    decodeTx p f = .ok (.cfTx (lo f.b0) f.rest) := by simp [decodeTx, h2]

theorem decodeTx_flowControl (p : List Byte) : decodeTx p (byte0Frame Config.fcCts) = .ok .fcTx := by rfl

/-- A frame that matches a row and meets the row's field conditions decodes to an instruction of that row. -/
theorem decodeTx_of_firstRow {p : List Byte} {f : Frame} {r : Row} (h : firstRow (.tx p) (frameWord f) 8 = some r)
    (hz : hi f.b0 = 0 → ∀ j, (lo f.b0).toNat ≤ j → j < 7 → f.rest.toList[j]? = some 0)
    (hp : hi f.b0 = 1 → p.length = (lo f.b0).toNat * 256 + f.rest.b1.toNat ∧ 8 ≤ p.length ∧
      p.take 6 = (sixOf f.rest).toList) :
    ∃ i, decodeTx p f = .ok i ∧ tableRow i = r := by
  rw [firstRow_tx] at h
  split_ifs at h with h0 h1 h2 hf
  all_goals obtain rfl := Option.some.inj h
  · exact ⟨_, decodeTx_single p f h0.1 h0.2 (hz h0.1), rfl⟩
  · obtain ⟨hlen, h8, hd⟩ := hp h1
    exact ⟨_, decodeTx_first p f h1 hlen h8 hd, rfl⟩
  · exact ⟨_, decodeTx_consecutive p f h2, rfl⟩
  · exact ⟨_, hf ▸ decodeTx_flowControl p, rfl⟩

/-! ### Sent responses -/

/-- The responses of the block and what they decode to (R83). -/
inductive SentResponse : List Byte → Instr → Prop where
  | posDsc (sf : Byte) (h : sf = 0x01 ∨ sf = 0x02) : SentResponse [0x50, sf] (.posDsc sf)
  | posRmba (data : List Byte) (h : data.length + 1 ≤ 4095) : SentResponse (0x63 :: data) (.posRmba data)
  | posSaSeed : SentResponse (0x67 :: Config.seed) .posSaSeed
  | posSaKey : SentResponse [0x67, 0x02] .posSaKey
  | neg (sid code : Byte) (n : Nrc) (hs : sid ≤ 0x3F) (hn : nrcName code = some n) :
      SentResponse [0x7F, sid, code] (.neg sid n)

theorem otherSubFn_eq_false (b : Byte) : otherSubFn b = false ↔ b = 0x01 ∨ b = 0x02 := by
  simp only [otherSubFn, Bool.and_eq_false_iff, bne_eq_false_iff_eq]

theorem sentResponse_of_decodeRsp {m : List Byte} {i : Instr} (h : decodeRsp m = .ok i) : SentResponse m i := by
  unfold decodeRsp at h
  split at h
  · cases h
  · rename_i r body
    split_ifs at h with hDsc hRmba hl hSa hSeed hKey hNeg
    · split at h
      · rename_i sf
        split_ifs at h with hsf
        obtain rfl := Except.ok.inj h
        exact hDsc ▸ .posDsc sf ((otherSubFn_eq_false sf).1 (by simpa using hsf))
      · cases h
    · obtain rfl := Except.ok.inj h
      exact hRmba ▸ .posRmba body hl
    · obtain rfl := Except.ok.inj h
      exact hSa ▸ hSeed ▸ .posSaSeed
    · obtain rfl := Except.ok.inj h
      exact hSa ▸ hKey ▸ .posSaKey
    · split at h
      · rename_i sid code
        split_ifs at h with hs
        split at h
        · rename_i n hn
          obtain rfl := Except.ok.inj h
          exact hNeg ▸ .neg sid code n hs hn
        · cases h
      · cases h

theorem SentResponse.decodes {m : List Byte} {i : Instr} (h : SentResponse m i) : decodeRsp m = .ok i := by
  cases h with
  | posDsc sf h => simp [decodeRsp, (otherSubFn_eq_false sf).2 h]
  | posRmba data h => simp [decodeRsp, h]
  | posSaSeed => rfl
  | posSaKey => rfl
  | neg sid code n hs hn => simpa [decodeRsp, hn] using hs

/-- A response matches the row it decodes to first. -/
theorem SentResponse.firstRow_eq {m : List Byte} {i : Instr} (h : SentResponse m i) :
    firstRow .rsp (messageWord m) m.length = some (tableRow i) := by
  cases h with
  | posDsc sf h => rw [firstRow_rsp]; rfl
  | posRmba data h => rw [firstRow_rsp, if_neg (by simp), if_pos ⟨rfl, h⟩]
  | posSaSeed => rfl
  | posSaKey => rfl
  | neg sid code n hs hn => rw [firstRow_rsp]; rfl

/-- A message that matches a row and whose fields hold what the table lists there is a response of that row. -/
theorem sentResponse_of_firstRow {m : List Byte} {r : Row} (h : firstRow .rsp (messageWord m) m.length = some r)
    (hsf : m[0]? = some 0x50 → m[1]? = some 0x01 ∨ m[1]? = some 0x02)
    (hseed : m.take 2 = [0x67, 0x01] → m.drop 1 = [0x01, 0x53, 0x5F, 0xA3, 0x85])
    (hneg : m[0]? = some 0x7F → ∃ sid code n, m = [0x7F, sid, code] ∧ sid ≤ 0x3F ∧ nrcName code = some n) :
    ∃ i, SentResponse m i ∧ tableRow i = r := by
  cases m with
  | nil => cases h
  | cons b body =>
    rw [firstRow_rsp] at h
    split_ifs at h with hDsc hRmba hSeed hKey hNeg
    all_goals obtain rfl := Option.some.inj h
    · obtain ⟨rfl, hl⟩ := hDsc
      obtain ⟨sf, rfl⟩ := List.length_eq_one_iff.1 (Nat.succ.inj hl)
      exact ⟨_, .posDsc sf (by simpa using hsf rfl), rfl⟩
    · obtain ⟨rfl, hl⟩ := hRmba
      exact ⟨_, .posRmba body hl, rfl⟩
    · obtain ⟨⟨rfl, h1⟩, hl⟩ := hSeed
      cases body with
      | nil => cases hl
      | cons c rest =>
        obtain rfl : c = 0x01 := h1
        obtain hs := hseed rfl
        rw [List.drop_one, List.tail_cons] at hs
        rw [hs]
        exact ⟨_, .posSaSeed, rfl⟩
    · obtain ⟨⟨rfl, h2⟩, hl⟩ := hKey
      obtain ⟨c, rfl⟩ := List.length_eq_one_iff.1 (Nat.succ.inj hl)
      obtain rfl : c = 0x02 := h2
      exact ⟨_, .posSaKey, rfl⟩
    · obtain ⟨sid, code, n, hm, hs, hn⟩ := hneg (congrArg some hNeg.1)
      rw [hm]
      exact ⟨_, .neg sid code n hs hn, rfl⟩

/-- Settles O60: what decodes is one of the sent frames or responses, and each of these has its row and its decode. -/
theorem sentBytesDecodeByTheirRow : Obligations.SentBytesDecodeByTheirRow := by
  refine ⟨fun p f i h => (sentFrame_of_decodeTx h).firstRow_eq, fun p f r h hz hp => decodeTx_of_firstRow h hz hp,
    fun m i h => (sentResponse_of_decodeRsp h).firstRow_eq, fun m r h hsf hseed hneg => ?_⟩
  obtain ⟨i, hi, hr⟩ := sentResponse_of_firstRow h hsf hseed hneg
  exact ⟨i, hi.decodes, hr⟩

end Sys2Proof
end

section
/-! PROOF. What the block sends for a payload, and how a wait for flow control ends when another frame comes
(40_framer_write.md R100 to R102, R105). -/

namespace Sys2Proof.Machine

/-! ### The header bytes of a first frame, written with shifts and masks (R73, R102) -/

/-- `0x10 | n` for a nibble `n`: type 1 in the high nibble. -/
theorem nibbles_one : ∀ n : Nibble, nibbles 1 n = 0x10#8 ||| n.setWidth 8 := by decide

/-- Byte 0 is `0x10 | (n >> 8)`; the length fits its 12 bits, so no bit above the nibble is lost. -/
theorem firstFrameByte0_ofNat (n : Nat) (h : n ≤ 4095) :
    firstFrameByte0 (BitVec.ofNat 12 n) = 0x10#8 ||| BitVec.ofNat 8 (n >>> 8) := by
  have high : ((BitVec.ofNat 12 n).extractLsb' 8 4).setWidth 8 = BitVec.ofNat 8 (n >>> 8) := by
    apply BitVec.eq_of_toNat_eq
    simp only [BitVec.toNat_setWidth, BitVec.extractLsb'_toNat, BitVec.toNat_ofNat, Nat.shiftRight_eq_div_pow]
    omega
  rw [firstFrameByte0_eq, nibbles_one, high]

/-- Byte 1 is `n & 0xFF`. -/
theorem firstFrameByte1_ofNat (n : Nat) : firstFrameByte1 (BitVec.ofNat 12 n) = BitVec.ofNat 8 (n % 256) := by
  apply BitVec.eq_of_toNat_eq
  simp only [firstFrameByte1, BitVec.extractLsb'_toNat, BitVec.toNat_ofNat, Nat.shiftRight_eq_div_pow]
  omega

/-- The first frame of a payload: its length in two bytes, its first six bytes (R102). -/
theorem firstFrame_eq (p : List Byte) (h : p.length ≤ 4095) :
    firstFrame p =
      pad8 ((0x10#8 ||| BitVec.ofNat 8 (p.length >>> 8)) :: BitVec.ofNat 8 (p.length % 256) :: p.take 6) := by
  rw [firstFrame, firstFrameByte0_ofNat _ h, firstFrameByte1_ofNat]

/-! ### The meanings of the frame instructions -/

/-- `SF.tx` is `SF_tx` (R101). -/
theorem exec_sfTx (p : List Byte) (s : State) : exec (.sfTx p) s = sendSingle p s := rfl

/-- `FF.tx` is `FF_tx` (R102). -/
theorem exec_ffTx (p : List Byte) (s : State) : exec (.ffTx p) s = sendFirst p s := rfl

/-- `FC.mismatch` raises the transport fault of a bad flow control and does nothing else (R105). -/
theorem exec_fcMismatch (f : Frame) (s : State) : exec (.fcMismatch f) s = .next (raiseTfault .fcBad s) := rfl

/-- In TX_WAIT_FC any frame but flow control is consumed and faults (R105). -/
theorem step_flowMismatch (s : State) (f : Frame) (q : List Event) (hp : s.phase = .txWaitFc)
    (hin : s.inbox = .frame f :: q) (hb : f.b0 ≠ Config.fcCts) : step s = .next (raiseTfault .fcBad (consume q s)) := by
  rw [step_txWaitFc s f q hp hin, decodeFc_other f hb, exec_fcMismatch]

/-! ### The statements -/

/-- Settles O8: the single frame emitted is the length byte and the payload, padded. -/
theorem singleFrameIsSent : Obligations.SingleFrameIsSent := by
  intro p s h
  rw [exec_sfTx, sendSingle_eq p s h, singleFrame_eq p h]
  rfl

/-- Settles O9: the first frame emitted has the length split over its two header bytes, and the payload is held. -/
theorem firstFrameIsSentAndHeld : Obligations.FirstFrameIsSentAndHeld := by
  intro p s h8 h
  rw [exec_ffTx, sendFirst_eq p s h8 h, firstFrame_eq p h]
  rfl

/-- Settles O10: on each side of the split both calls have the same answer, by the spec lemmas of `Write` and of the two
sends. -/
theorem writeSplitsOnLength : Obligations.WriteSplitsOnLength := by
  intro p s h
  refine ⟨fun hShort => ?_, fun hLong => ?_, write_completes p s h⟩
  · rw [write_short p s hShort, exec_sfTx, sendSingle_eq p s hShort]
  · rw [write_long p s hLong h, exec_ffTx, sendFirst_eq p s hLong h]

/-- Settles O19: the step, and the instruction from any state, raise the fault `fcBad`, which touches nothing else. -/
theorem flowControlMismatchAbandonsTheResponse : Obligations.FlowControlMismatchAbandonsTheResponse :=
  ⟨fun s f q hp hin hb => ⟨_, step_flowMismatch s f q hp hin hb, rfl, rfl, rfl, rfl, rfl, rfl, rfl⟩,
    fun s f => ⟨_, exec_fcMismatch f s, rfl, rfl, rfl, rfl, rfl, rfl, rfl⟩⟩

end Sys2Proof.Machine
end

section
/-! PROOF. Running the request a message decodes as is dispatching the message (30_encoding.md R79,
42_engine_dispatch.md R150). -/

namespace Sys2Proof.Machine

/-- The decoder's test of bit 7 and the dispatcher's comparison are the same test (R79, R152). -/
theorem bit7_eq_one_iff : ∀ b : Byte, b.extractLsb' 7 1 = 1 ↔ 0x80 ≤ b := by decide

theorem exec_decodeDsc (sf : Byte) (rest : List Byte) (s : State) :
    exec (decodeDsc (sf :: rest)) s = handler10 sf rest s := by
  simp only [decodeDsc, handler10]
  split_ifs <;> rfl

theorem exec_decodeSa (sf : Byte) (rest : List Byte) (s : State) :
    exec (decodeSa (sf :: rest)) s = handler27 sf rest s := by
  simp only [decodeSa, handler27]
  split_ifs <;> rfl

/-- The decoder makes the tests of `Dispatch` in an order of its own; row by row the meanings agree. -/
theorem exec_decodeReq (m : List Byte) (s : State) : exec (decodeReq m) s = dispatchMessage m s := by
  cases m with
  | nil => rfl
  | cons sid p =>
    simp only [decodeReq, dispatchMessage, dispatchRequest, bit7_eq_one_iff]
    by_cases h80 : 0x80 ≤ sid
    · rw [if_pos h80, if_pos h80]; rfl
    rw [if_neg h80, if_neg h80]
    by_cases h40 : Config.sidReqMax < sid
    · rw [if_pos h40, if_pos h40]; rfl
    rw [if_neg h40, if_neg h40]
    by_cases hDsc : sid = Config.sidDsc
    · subst hDsc
      cases p with
      | nil => rfl
      | cons sf rest => exact exec_decodeDsc sf rest s
    by_cases hRmba : sid = Config.sidRmba
    · subst hRmba
      cases p <;> rfl
    by_cases hSa : sid = Config.sidSa
    · subst hSa
      cases p with
      | nil => rfl
      | cons sf rest => exact exec_decodeSa sf rest s
    · have unsupported : supportedSid sid = false := by
        simp only [supportedSid, beq_eq_false_iff_ne.2 hDsc, beq_eq_false_iff_ne.2 hRmba, beq_eq_false_iff_ne.2 hSa,
          Bool.or_self]
      simp only [hDsc, hRmba, hSa, unsupported, if_false]
      rfl

/-- A message of at most 4101 bytes decodes as a request (R70, R79). -/
theorem decode_req (m : List Byte) (h : m.length ≤ Config.rxCap) : decode .req m = .ok (decodeReq m) := if_pos h

end Sys2Proof.Machine
end

section
/-! PROOF. The receive path (41_framer_read.md R120 to R128): how a reassembly grows, completes or is abandoned, when flow
control is sent, what a timeout does, and which leading frames are dropped. -/

namespace Sys2Proof.Machine

/-! ### Consecutive frames (R125, R126) -/

/-- In RX_CF the frame with the expected sequence number runs as `CF` (R125). -/
theorem step_expectedCf (s : State) (f : Frame) (q : List Event) (hp : s.phase = .rxCf) (hin : s.inbox = .frame f :: q)
    (hb : f.b0 = nibbles 2 s.rxSeq) : step s = exec (.cf s.rxSeq f.rest) (consume q s) := by
  rw [step_rxCf s f q hp hin, decodeCf_expected _ f hb]

/-- `CF.mismatch` raises the transport fault of a wrong sequence and does nothing else (R126). -/
theorem exec_cfMismatch (f : Frame) (s : State) : exec (.cfMismatch f) s = .next (raiseTfault .cfSeq s) := rfl

/-- In RX_CF any frame but the expected one is consumed and faults (R126). -/
theorem step_cfMismatch (s : State) (f : Frame) (q : List Event) (hp : s.phase = .rxCf) (hin : s.inbox = .frame f :: q)
    (hb : f.b0 ≠ nibbles 2 s.rxSeq) : step s = .next (raiseTfault .cfSeq (consume q s)) := by
  rw [step_rxCf s f q hp hin, decodeCf_other _ f hb, exec_cfMismatch]

/-- Below the declared size `CF` extends the reassembly (R125). -/
theorem exec_cf_extends (sn : Nibble) (d : Seven) (s : State) (hroom : s.rxLen.toNat + 7 ≤ 4101)
    (hless : s.rxLen.toNat + 7 < s.rxSize.toNat) : exec (.cf sn d) s = .next (extendReassembly d s) :=
  (if_neg (Nat.not_lt.2 hroom)).trans (if_neg fun h => Nat.not_le.2 hless ((messageComplete_iff _ _).1 h))

/-- From the declared size on `CF` delivers the whole buffer (R125). -/
theorem exec_cf_delivers (sn : Nibble) (d : Seven) (s : State) (hroom : s.rxLen.toNat + 7 ≤ 4101)
    (hdone : s.rxSize.toNat ≤ s.rxLen.toNat + 7) :
    exec (.cf sn d) s = dispatchMessage (rxAppended d s) (appendData d s) :=
  (if_neg (Nat.not_lt.2 hroom)).trans (if_pos ((messageComplete_iff _ _).2 hdone))

/-- A buffer that holds `rx_len` bytes keeps all of them when seven are appended (R28, R125). -/
theorem rxAppended_of_length (d : Seven) (s : State) (h : s.rxBuf.length = s.rxLen.toNat) :
    rxAppended d s = s.rxBuf ++ d.toList := by rw [rxAppended, List.take_of_length_le h.le]

/-- The sequence number counts modulo 16 (R27, R125). -/
theorem rxSeq_succ : ∀ n : Nibble, n + 1 = BitVec.ofNat 4 ((n.toNat + 1) % 16) := by decide

/-- Settles O42: `CF` by its two cases; what it delivers is the appended buffer, of at most 4101 bytes, so it decodes as
a request, and running that request is dispatching the message. -/
theorem consecutiveFrameExtendsOrDelivers : Obligations.ConsecutiveFrameExtendsOrDelivers := by
  refine ⟨fun s f q hp hin hb => step_expectedCf s f q hp hin (by rwa [nibbles_two]), fun sn d s hlen hroom => ?_⟩
  have happ := rxAppended_of_length d s hlen
  refine ⟨fun hless => ?_, fun hdone => ?_⟩
  · rw [exec_cf_extends sn d s hroom hless, extendReassembly, happ, rxSeq_succ]
  · have hcap : (s.rxBuf ++ d.toList).length ≤ Config.rxCap := by
      rw [List.length_append, hlen, length_sevenToList]; exact hroom
    have hrun := exec_cf_delivers sn d s hroom hdone
    rw [appendData, happ] at hrun
    obtain ⟨t, ht, -⟩ := dispatchMessage_engine (s.rxBuf ++ d.toList) { s with rxBuf := s.rxBuf ++ d.toList }
    exact ⟨decodeReq (s.rxBuf ++ d.toList), t, decode_req _ hcap, by rw [hrun, exec_decodeReq], hrun.trans ht⟩

/-- Settles O18: the step, and the instruction from any state, raise the fault `cfSeq`, which touches nothing else. -/
theorem sequenceMismatchAbandonsTheMessage : Obligations.SequenceMismatchAbandonsTheMessage :=
  ⟨fun s f q hp hin hb =>
      ⟨_, step_cfMismatch s f q hp hin (by rwa [nibbles_two]), rfl, rfl, rfl, rfl, rfl, rfl, rfl⟩,
    fun s f => ⟨_, exec_cfMismatch f s, rfl, rfl, rfl, rfl, rfl, rfl, rfl⟩⟩

/-! ### Flow control (R124) -/

/-- No frame of the list is flow control to the peer: none has byte 0 = 0x30. -/
def NoFlowControl (l : List Frame) : Prop := ∀ g ∈ l, g.b0 ≠ 0x30

theorem noFlowControl_nil : NoFlowControl [] := fun _ h => absurd h List.not_mem_nil

/-- A frame of a type other than 3 is not flow control (R71). -/
theorem b0_ne_of_hi {f : Frame} {n : Nibble} (h : hi f.b0 = n) (hn : n ≠ 3) : f.b0 ≠ 0x30 :=
  fun e => hn (h.symm.trans (by rw [e]; rfl))

theorem noFlowControl_singleton {f : Frame} {n : Nibble} (h : hi f.b0 = n) (hn : n ≠ 3) : NoFlowControl [f] :=
  fun g hg => by rw [List.mem_singleton.1 hg]; exact b0_ne_of_hi h hn

theorem noFlowControl_cfFrames (p : List Byte) : NoFlowControl (cfFrames p) := fun _ hg =>
  b0_ne_of_hi (hi_of_mem_cfLoop hg) (by decide)

/-- What the engine adds to the frames already sent holds no flow control. -/
theorem EngineNext.out_eq {s t : State} (h : EngineNext s t) : ∃ l, t.out = s.out ++ l ∧ NoFlowControl l := by
  cases h with
  | silent => exact ⟨[], (List.append_nil _).symm, noFlowControl_nil⟩
  | single hu p _ =>
    exact ⟨[singleFrame p], by simp [hu.out], noFlowControl_singleton (hi_singleFrame p) (by decide)⟩
  | first data _ _ _ _ =>
    exact ⟨[firstFrame (0x63 :: data)], by simp, noFlowControl_singleton (hi_firstFrame _) (by decide)⟩

/-- `FF` sends flow control first and once, whether it delivers or starts a reassembly (R123, R124). -/
theorem exec_ff_out {len : BitVec 12} {d : Six} {s t : State} (h : exec (.ff len d) s = .next t) :
    ∃ l, t.out = s.out ++ flowControlFrame :: l ∧ NoFlowControl l := by
  change execFf len d s = .next t at h
  unfold execFf at h
  split_ifs at h
  · obtain ⟨l, hl, hno⟩ := (engineNext_of_dispatch h).out_eq
    exact ⟨l, by simpa using hl, hno⟩
  · obtain rfl := next_inj h
    exact ⟨[], by simp, noFlowControl_nil⟩

/-- A step in which no first frame is taken in RX_IDLE sends no flow control (R124). -/
theorem StepNext.noFlowControl {s t : State} (h : StepNext s t)
    (hno : ¬ ∃ f q, s.phase = .rxIdle ∧ s.inbox = .frame f :: q ∧ hi f.b0 = 1) : NoFlowControl t.out := by
  have engine {u : State} (he : EngineNext u t) (hu : u.out = []) : NoFlowControl t.out := by
    obtain ⟨l, hl, hl'⟩ := he.out_eq
    rwa [hl, hu]
  cases h with
  | idle | leadInvalid | closure | mismatch | grows | flowMismatch => exact noFlowControl_nil
  | timeout q => rw [takeTimeout_out]; exact noFlowControl_nil
  | single _ _ _ _ _ _ _ he => exact engine he rfl
  | completes _ _ _ _ _ _ _ _ _ he => exact engine he rfl
  | firstDelivers f q _ hp hin h1 => exact absurd ⟨f, q, hp, hin, h1⟩ hno
  | firstStarts f q hp hin h1 => exact absurd ⟨f, q, hp, hin, h1⟩ hno
  | burst => exact noFlowControl_cfFrames _

/-- Settles O15: a first frame in RX_IDLE runs as `FF`, which sends flow control first and once; by the cases of a step
nothing else sends it. -/
theorem flowControlIsSentOncePerFirstFrame : Obligations.FlowControlIsSentOncePerFirstFrame := by
  refine fun s t h => ⟨fun ⟨f, q, hp, hin, h1⟩ => ?_, (stepNext_of_step h).noFlowControl⟩
  rw [step_lead s f q hp hin, decodeLead_first f h1] at h
  exact exec_ff_out h

/-! ### Timeouts and invalid leading frames (R106, R120, R127, R128) -/

theorem takeTimeout_rxIdle (s : State) (h : s.phase = .rxIdle) : takeTimeout s = s := by rw [takeTimeout, h]

theorem takeTimeout_rxCf (s : State) (h : s.phase = .rxCf) : takeTimeout s = raiseTfault .cfAbsent s := by
  rw [takeTimeout, h]

theorem takeTimeout_txWaitFc (s : State) (h : s.phase = .txWaitFc) : takeTimeout s = raiseTfault .fcAbsent s := by
  rw [takeTimeout, h]

/-- Settles O16: the step on a timeout, by the phase it comes in. -/
theorem timeoutsByPhase : Obligations.TimeoutsByPhase := by
  intro s q hin
  have hstep (hp : s.phase ≠ .closed) := step_timeout s q hp hin
  refine ⟨fun hp => ?_, fun hp => ?_, fun hp => ?_⟩
  · rw [hstep (by simp [hp]), takeTimeout_rxIdle (consume q s) hp]; rfl
  · rw [hstep (by simp [hp]), takeTimeout_rxCf (consume q s) hp]
    exact ⟨_, rfl, rfl, rfl, rfl, rfl, rfl, rfl, rfl⟩
  · rw [hstep (by simp [hp]), takeTimeout_txWaitFc (consume q s) hp]
    exact ⟨_, rfl, rfl, rfl, rfl, rfl, rfl, rfl, rfl⟩

/-- A transport fault raised in RX_IDLE writes `tfault` alone. -/
theorem raiseTfault_of_rxIdle (k : TFault) (s : State) (h : s.phase = .rxIdle) :
    raiseTfault k s = { s with tfault := some k } := by rw [raiseTfault, ← h]

/-- Settles O17: a leading frame of type nibble above 1 raises `leadType` whichever of the four rows it is, and each of
the four instructions does. -/
theorem invalidLeadingFrameIsDropped : Obligations.InvalidLeadingFrameIsDropped := by
  refine ⟨fun s f q hp hin hhi => ?_, fun s => ⟨fun _ _ => rfl, fun _ _ => rfl, fun _ _ => rfl, fun _ _ => rfl⟩⟩
  have hne (n : Nibble) (hn : n.toNat ≤ 1) : hi f.b0 ≠ n := fun e => by rw [e] at hhi; omega
  rw [step_lead s f q hp hin, exec_decodeLead_invalid f _ (hne 0 (by decide)) (hne 1 (by decide)),
    raiseTfault_of_rxIdle _ (consume q s) hp]
  rfl

end Sys2Proof.Machine
end

section
/-! PROOF. The engine before any handler runs (42_engine_dispatch.md R152 to R154), and what its responses write
(R157, R158). -/

namespace Sys2Proof.Machine

/-! ### The validation of `Dispatch` (R152 to R154) -/

/-- The two discarding rows together cover every first byte above SID_REQ_MAX (R152). -/
theorem dispatchMessage_nonRequest (sid : Byte) (p : List Byte) (s : State) (h : Config.sidReqMax < sid) :
    dispatchMessage (sid :: p) s = .next (toIdle s) := by
  simp only [dispatchMessage, dispatchRequest]
  by_cases h80 : 0x80 ≤ sid
  · rw [if_pos h80, execIgnored80FF]
  · rw [if_neg h80, if_pos h, execIgnored407F]

@[simp] theorem supportedSid_false (sid : Byte) :
    supportedSid sid = false ↔ sid ≠ Config.sidDsc ∧ sid ≠ Config.sidRmba ∧ sid ≠ Config.sidSa := by
  simp [supportedSid, and_assoc]

/-- A request of a service that is not supported is refused whatever its length (R153). -/
theorem dispatchMessage_unsupported (sid : Byte) (p : List Byte) (s : State) (hmax : sid ≤ Config.sidReqMax)
    (hsid : supportedSid sid = false) : dispatchMessage (sid :: p) s = execNeg sid .serviceNotSupported s := by
  have h80 : ¬ 0x80 ≤ sid := fun h => absurd (BitVec.le_trans h hmax) (by decide)
  simp only [dispatchMessage, dispatchRequest]
  rw [if_neg h80, if_neg (BitVec.not_lt.2 hmax), if_pos (by rw [hsid, Bool.not_false]), execUnsupported]

/-- A supported identifier alone is a message too short (R154). -/
theorem dispatchMessage_oneByte (sid : Byte) (s : State)
    (h : sid = Config.sidDsc ∨ sid = Config.sidRmba ∨ sid = Config.sidSa) :
    dispatchMessage [sid] s = execNeg sid .incorrectMessageLengthOrInvalidFormat s := by
  obtain rfl | rfl | rfl := h <;> rfl

/-! ### The meanings of the instructions without a service -/

theorem exec_ignored80FF (low : BitVec 7) (rest : List Byte) (s : State) :
    exec (.ignored80FF low rest) s = .next (toIdle s) := rfl

theorem exec_ignored407F (low : BitVec 6) (rest : List Byte) (s : State) :
    exec (.ignored407F low rest) s = .next (toIdle s) := rfl

theorem exec_unsupported (sid : Byte) (rest : List Byte) (s : State) :
    exec (.unsupported sid rest) s = execNeg sid .serviceNotSupported s := rfl

theorem exec_shortDsc (s : State) :
    exec .shortDsc s = execNeg Config.sidDsc .incorrectMessageLengthOrInvalidFormat s := rfl

theorem exec_shortRmba (s : State) :
    exec .shortRmba s = execNeg Config.sidRmba .incorrectMessageLengthOrInvalidFormat s := rfl

theorem exec_shortSa (s : State) :
    exec .shortSa s = execNeg Config.sidSa .incorrectMessageLengthOrInvalidFormat s := rfl

/-! ### The meanings of the responses (R157, R158) -/

theorem exec_posDsc (subFn : Byte) (s : State) : exec (.posDsc subFn) s = execPosDsc subFn s := rfl

theorem exec_posRmba (data : List Byte) (s : State) : exec (.posRmba data) s = execPosRmba data s := rfl

theorem exec_posSaSeed (s : State) : exec .posSaSeed s = execPosSaSeed s := rfl

theorem exec_posSaKey (s : State) : exec .posSaKey s = execPosSaKey s := rfl

theorem exec_neg (sid : Byte) (n : Nrc) (s : State) : exec (.neg sid n) s = execNeg sid n s := rfl

theorem respond_positive (sid : Byte) (data : List Byte) (s : State) :
    respond sid (.positive data) s = write ((sid + Config.posOffset) :: data) s := rfl

theorem respond_negative (sid : Byte) (n : Nrc) (s : State) : respond sid (.negative n) s = exec (.neg sid n) s := rfl

/-- An answer of one frame writes two fields of the state. -/
theorem toIdle_emit (f : Frame) (s : State) : toIdle (emit f s) = { s with phase := .rxIdle, out := s.out ++ [f] } := rfl

/-- A negative response, field by field (R158). -/
theorem execNeg_fields (sid : Byte) (n : Nrc) (s : State) :
    execNeg sid n s = .next { s with phase := .rxIdle, out := s.out ++ [pad8 [0x03, 0x7F, sid, nrcCode n]] } := by
  rw [execNeg_eq, toIdle_emit]

/-- A read-memory response of at most 6 data bytes is one single frame (R100, R157). -/
theorem execPosRmba_short (data : List Byte) (s : State) (h : data.length ≤ 6) :
    execPosRmba data s = .next (toIdle (emit (pad8 (BitVec.ofNat 8 (data.length + 1) :: 0x63 :: data)) s)) := by
  have hlen : (0x63 :: data : List Byte).length ≤ 7 := Nat.succ_le_succ h
  rw [execPosRmba_eq, write_short _ s hlen, singleFrame_eq _ hlen, List.length_cons]

/-- A longer one is held, and its first frame carries 5 of the data bytes (R100, R102, R157). -/
theorem execPosRmba_long (data : List Byte) (s : State) (h7 : 7 ≤ data.length) (h : data.length ≤ 4094) :
    execPosRmba data s =
      .next (awaitFlowControl (0x63 :: data) (emit
        (pad8 ((0x10#8 ||| BitVec.ofNat 8 ((data.length + 1) >>> 8)) :: BitVec.ofNat 8 ((data.length + 1) % 256) ::
          0x63 :: data.take 5)) s)) := by
  have hmin : 7 < (0x63 :: data : List Byte).length := Nat.succ_le_succ h7
  have hmax : (0x63 :: data : List Byte).length ≤ 4095 := Nat.succ_le_succ h
  rw [execPosRmba_eq, write_long _ s hmin hmax, firstFrame_eq _ hmax, List.length_cons, List.take_succ_cons]

/-! ### The statements -/

/-- Settles O25: above 0x3F the message is discarded whichever of the two rows it is, and each instruction discards. -/
theorem nonRequestsAreDiscarded : Obligations.NonRequestsAreDiscarded :=
  ⟨dispatchMessage_nonRequest, exec_ignored80FF, exec_ignored407F⟩

/-- Settles O26: the message and the instruction are the same negative response. -/
theorem unsupportedServiceAnswers11 : Obligations.UnsupportedServiceAnswers11 := by
  intro sid p s hmax hDsc hRmba hSa
  have hsid : supportedSid sid = false := (supportedSid_false sid).2 ⟨hDsc, hRmba, hSa⟩
  rw [dispatchMessage_unsupported sid p s hmax hsid, exec_unsupported]
  exact ⟨execNeg_fields sid _ s, execNeg_fields sid _ s⟩

/-- Settles O27: each short message, and its instruction, is the negative response of its own service. -/
theorem oneByteRequestAnswers13 : Obligations.OneByteRequestAnswers13 :=
  ⟨fun sid s h => (dispatchMessage_oneByte sid s h).trans (execNeg_fields sid _ s), fun s =>
    ⟨(exec_shortDsc s).trans (execNeg_fields _ _ s), (exec_shortRmba s).trans (execNeg_fields _ _ s),
      (exec_shortSa s).trans (execNeg_fields _ _ s)⟩⟩

/-- Settles O28: `Respond` of a negative outcome is the instruction, and both raise the NRC. -/
theorem negativeResponseIsOneSingleFrame : Obligations.NegativeResponseIsOneSingleFrame := fun sid n s =>
  ⟨respond_negative sid n s, (exec_neg sid n s).trans (execNeg_fields sid n s)⟩

/-- Settles O29: the short responses are one single frame each, the long read-memory response a first frame. -/
theorem positiveResponsesAreWritten : Obligations.PositiveResponsesAreWritten := by
  refine ⟨respond_positive, fun sf s => ?_, fun s => ?_, fun s => ?_, fun data s h => ?_, fun data s h7 h => ?_⟩
  · rw [exec_posDsc, execPosDsc_eq, toIdle_emit]
  · rw [exec_posSaSeed, execPosSaSeed_eq, toIdle_emit]
  · rw [exec_posSaKey, execPosSaKey_eq, toIdle_emit]
  · rw [exec_posRmba, execPosRmba_short data s h, toIdle_emit]
  · rw [exec_posRmba, execPosRmba_long data s h7 h]
    rfl

end Sys2Proof.Machine
end

section
/-! PROOF. Diagnostic session control (43_service_session_control.md R180 to R182). -/

namespace Sys2Proof.Machine

/-! ### The meanings of the three instructions -/

theorem exec_dsc01 (rest : List Byte) (s : State) :
    exec (.dsc01 rest) s = execPosDsc 0x01 (selectSession .default s) := rfl

theorem exec_dsc02 (rest : List Byte) (s : State) :
    exec (.dsc02 rest) s = execPosDsc 0x02 (selectSession .extended s) := rfl

theorem exec_dscOther (sf : Byte) (rest : List Byte) (s : State) :
    exec (.dscOther sf rest) s = execNeg Config.sidDsc .subFunctionNotSupported s := rfl

/-- The positive response on top of the session just selected, field by field (R180). -/
theorem execPosDsc_selectSession (sf : Byte) (v : Session) (s : State) :
    execPosDsc sf (selectSession v s) =
      .next { s with
        session := v, lock := .locked, phase := .rxIdle, out := s.out ++ [pad8 [0x02, 0x50, sf]] } := by
  rw [execPosDsc_eq, toIdle_emit, selectSession]

/-! ### The service reached from `Dispatch` (R155) -/

/-- A message of service 0x10 with a sub-function passes the validation and goes to the service's handler. -/
theorem dispatchMessage_dsc (sf : Byte) (rest : List Byte) (s : State) :
    dispatchMessage (Config.sidDsc :: sf :: rest) s = handler10 sf rest s := rfl

/-- Any sub-function but the two of R180 is refused (R181). -/
theorem dispatchMessage_dscOther {sf : Byte} (h1 : sf ≠ 0x01) (h2 : sf ≠ 0x02) (rest : List Byte) (s : State) :
    dispatchMessage (Config.sidDsc :: sf :: rest) s = execNeg Config.sidDsc .subFunctionNotSupported s := by
  rw [dispatchMessage_dsc, handler10, if_neg h1, if_neg h2, execDscOther]

/-! ### The statement -/

/-- Settles O32: the two selecting instructions answer from the session they select; the refused message and its
instruction are the same negative response. -/
theorem sessionControlSelectsAndLocks : Obligations.SessionControlSelectsAndLocks := by
  refine ⟨fun rest s => ⟨?_, ?_⟩, fun sf rest s h1 h2 => ⟨?_, ?_⟩⟩
  · rw [exec_dsc01, execPosDsc_selectSession]
  · rw [exec_dsc02, execPosDsc_selectSession]
  · exact (dispatchMessage_dscOther h1 h2 rest s).trans (execNeg_fields _ _ s)
  · exact (exec_dscOther sf rest s).trans (execNeg_fields _ _ s)

end Sys2Proof.Machine
end

section
/-! PROOF. Read memory by address: what the service tests before it reads its operands
(45_service_read_memory.md R210, R211). -/

namespace Sys2Proof.Machine

theorem exec_rmba (a z : Nibble) (spans : List Byte) (s : State) :
    exec (.rmba a z spans) s = execRmba a z spans s := rfl

/-! ### One lemma per refusal, in the order of the tests -/

/-- The session is tested first (R210). -/
theorem execRmba_wrongSession (a z : Nibble) (spans : List Byte) (s : State) (hs : s.session ≠ .extended) :
    execRmba a z spans s = execNeg Config.sidRmba .serviceNotSupportedInActiveSession s := by
  have session : (!inExtendedSession s) = true := by rw [(inExtendedSession_false s).2 hs, Bool.not_false]
  rw [execRmba, if_pos session]

/-- The lock is tested second (R210). -/
theorem execRmba_notUnlocked (a z : Nibble) (spans : List Byte) (s : State) (hs : s.session = .extended)
    (hl : s.lock ≠ .unlocked) : execRmba a z spans s = execNeg Config.sidRmba .securityAccessDenied s := by
  have session : ¬ (!inExtendedSession s) = true := by simpa using hs
  have lock : (!isUnlocked s) = true := by rw [(isUnlocked_false s).2 hl, Bool.not_false]
  rw [execRmba, if_neg session, if_pos lock]

/-- The length is tested third, against what the format byte asks (R211). -/
theorem execRmba_wrongLength (a z : Nibble) (spans : List Byte) (s : State) (hs : s.session = .extended)
    (hl : s.lock = .unlocked) (hlen : spans.length ≠ a.toNat + z.toNat) :
    execRmba a z spans s = execNeg Config.sidRmba .incorrectMessageLengthOrInvalidFormat s := by
  have session : ¬ (!inExtendedSession s) = true := by simpa using hs
  have lock : ¬ (!isUnlocked s) = true := by simpa using hl
  have length : (!spansLengthOk a z spans) = true := by rw [(spansLengthOk_false a z spans).2 hlen, Bool.not_false]
  rw [execRmba, if_neg session, if_neg lock, if_pos length]

/-! ### The statement -/

/-- Settles O37: each clause is the first test of the service that fails, and a negative response writes phase and
output alone. -/
theorem readMemoryRefusesInOrder : Obligations.ReadMemoryRefusesInOrder := by
  intro a z spans s
  rw [exec_rmba]
  refine ⟨fun hs => ?_, fun hs hl => ?_, fun hs hl hlen => ?_⟩
  · exact (execRmba_wrongSession a z spans s hs).trans (execNeg_fields _ _ s)
  · exact (execRmba_notUnlocked a z spans s hs hl).trans (execNeg_fields _ _ s)
  · exact (execRmba_wrongLength a z spans s hs hl hlen).trans (execNeg_fields _ _ s)

end Sys2Proof.Machine
end

section
/-! PROOF. What the frames that deliver a message run (41_framer_read.md R122, R123, 42_engine_dispatch.md R150, R160): the
request the message decodes to, answered in the same step. -/

namespace Sys2Proof.Machine

/-! ### The meanings of the leading data frames -/

/-- `SF` dispatches its payload (R122). -/
theorem exec_sf (l : Nibble) (d : Seven) (s : State) : exec (.sf l d) s = dispatchMessage (singlePayload l d) s := rfl

/-- Above six declared bytes `FF` starts a reassembly, flow control sent (R123). -/
theorem exec_ff_starts (len : BitVec 12) (d : Six) (s : State) (h : 6 < len.toNat) :
    exec (.ff len d) s = .next (startReassembly len d (emit flowControlFrame s)) :=
  if_neg fun hc => Nat.not_le.2 h ((messageComplete_iff _ _).1 hc)

/-- Up to six declared bytes `FF` dispatches its six bytes, flow control sent (R123, D7). -/
theorem exec_ff_delivers (len : BitVec 12) (d : Six) (s : State) (h : len.toNat ≤ 6) :
    exec (.ff len d) s = dispatchMessage d.toList (emit flowControlFrame s) :=
  if_pos ((messageComplete_iff _ _).2 h)

/-! ### Dispatching is running the decoded request -/

/-- What decodes as a request is a message of at most 4101 bytes, and decodes by the table of R79 (R70). -/
theorem decode_req_eq_ok_iff (m : List Byte) (i : Instr) :
    decode .req m = .ok i ↔ m.length ≤ Config.rxCap ∧ decodeReq m = i := by
  simp only [decode]
  split_ifs with h
  · simp [h]
  · simp [h]

/-- A message of at most 4101 bytes decodes as a request, which dispatching it runs and which answers (R79, R150, R160). -/
theorem dispatchMessage_runs_request (m : List Byte) (s : State) (h : m.length ≤ Config.rxCap) :
    ∃ i t, decode .req m = .ok i ∧ dispatchMessage m s = exec i s ∧ dispatchMessage m s = .next t := by
  obtain ⟨t, ht, -⟩ := dispatchMessage_engine m s
  exact ⟨decodeReq m, t, decode_req m h, (exec_decodeReq m s).symm, ht⟩

theorem length_singlePayload_le (l : Nibble) (d : Seven) : (singlePayload l d).length ≤ 7 := by
  rw [singlePayload, List.length_take, length_sevenToList]
  exact Nat.min_le_right _ _

/-- Where the engine leaves the block (R160, R39). -/
theorem EngineNext.phase {s t : State} (h : EngineNext s t) :
    t.phase = .rxIdle ∨ (t.phase = .txWaitFc ∧ s.session = .extended ∧ s.lock = .unlocked) := by
  cases h with
  | silent => exact .inl rfl
  | single => exact .inl rfl
  | first _ _ _ hs hl => exact .inr ⟨rfl, hs, hl⟩

/-! ### The statements -/

/-- Settles O30: what decodes as a request is the message's own decode, which runs as the message is dispatched. -/
theorem dispatchRunsTheDecodedRequest : Obligations.DispatchRunsTheDecodedRequest := fun m s i h => by
  rw [← ((decode_req_eq_ok_iff m i).1 h).2, exec_decodeReq]

/-- Settles O31: every answer of the engine ends in one of the two phases. -/
theorem dispatchAlwaysAnswers : Obligations.DispatchAlwaysAnswers := fun m s =>
  have ⟨t, ht, he⟩ := dispatchMessage_engine m s
  ⟨t, ht, he.phase⟩

/-- Settles O40: the payload is at most seven bytes, and dispatching it runs the request it decodes to. -/
theorem singleFrameRunsItsRequest : Obligations.SingleFrameRunsItsRequest := fun l d s =>
  dispatchMessage_runs_request (singlePayload l d) s ((length_singlePayload_le l d).trans (by decide))

/-- Settles O41: the two cases of `FF`, flow control sent in both. -/
theorem firstFrameStartsOrDelivers : Obligations.FirstFrameStartsOrDelivers := by
  refine fun len d s => ⟨exec_ff_starts len d s, fun h => ?_⟩
  rw [exec_ff_delivers len d s h]
  exact dispatchMessage_runs_request d.toList (emit flowControlFrame s) (Nat.le_of_ble_eq_true rfl)

end Sys2Proof.Machine
end

section
/-! PROOF. The invariant of the reachable states (10_state.md R24 to R30): it holds at reset, every step keeps it, and from
it no step stops (42_engine_dispatch.md R160). -/

namespace Sys2Proof.Machine

open Safety (StateInv)

/-! ### A state in a phase without a transfer -/

/-- Outside RX_CF and TX_WAIT_FC the invariant speaks of session, lock and image alone (R20). -/
theorem stateInv_of_noTransfer {t : State} (hpriv : t.lock ≠ .locked → t.session = .extended) (hmem : t.mem.wf = true)
    (hcf : t.phase ≠ .rxCf) (hfc : t.phase ≠ .txWaitFc) : StateInv t :=
  ⟨hpriv, hmem, fun h => absurd h hcf, fun h => absurd h hfc⟩

/-- Settles O51: no transfer has begun, the block is locked, and a loaded image is in canonical form. -/
theorem invariantHoldsAtReset : Obligations.InvariantHoldsAtReset := fun fw =>
  stateInv_of_noTransfer (fun h => absurd rfl h) (wf_ofImage fw) (by simp) (by simp)

/-- The outputs of a step are no part of the invariant. -/
theorem stateInv_consume {s : State} (h : StateInv s) (q : List Event) : StateInv (consume q s) :=
  ⟨h.privilege, h.memory, h.reassembly, h.transmission⟩

theorem stateInv_beginStep {s : State} (h : StateInv s) : StateInv (beginStep s) :=
  ⟨h.privilege, h.memory, h.reassembly, h.transmission⟩

/-- A transport fault ends the transfer (R232). -/
theorem stateInv_raiseTfault {s : State} (h : StateInv s) (k : TFault) : StateInv (raiseTfault k s) :=
  stateInv_of_noTransfer h.privilege h.memory (by simp) (by simp)

/-- A timeout changes nothing or ends the transfer with a fault (R120, R127, R106). -/
theorem takeTimeout_cases (s : State) : takeTimeout s = s ∨ ∃ k, takeTimeout s = raiseTfault k s := by
  unfold takeTimeout
  split
  · exact .inl rfl
  · exact .inr ⟨_, rfl⟩
  · exact .inr ⟨_, rfl⟩
  · exact .inl rfl

theorem stateInv_takeTimeout {s : State} (h : StateInv s) : StateInv (takeTimeout s) := by
  rcases takeTimeout_cases s with e | ⟨k, e⟩
  · rwa [e]
  · rw [e]
    exact stateInv_raiseTfault h k

/-! ### The engine -/

/-- A service effect leaves the lock non-zero in session 2 alone (R24, R242). -/
theorem ServiceEffect.keeps_privilege {s u : State} (h : ServiceEffect s u)
    (hs : s.lock ≠ .locked → s.session = .extended) : u.lock ≠ .locked → u.session = .extended := by
  cases h with
  | unchanged => exact hs
  | select v _ => exact fun h => absurd rfl h
  | seed he => exact fun _ => he
  | key he _ => exact fun _ => he

theorem ServiceEffect.mem {s u : State} (h : ServiceEffect s u) : u.mem = s.mem := by rw [h.frame]

/-- The engine asks only for the parts of the invariant that hold in every phase, and answers with the whole of it. -/
theorem EngineNext.stateInv {s t : State} (h : EngineNext s t) (hpriv : s.lock ≠ .locked → s.session = .extended)
    (hmem : s.mem.wf = true) : StateInv t := by
  cases h with
  | silent => exact stateInv_of_noTransfer hpriv hmem (by simp) (by simp)
  | single hu p _ =>
    exact stateInv_of_noTransfer (hu.keeps_privilege hpriv) (by simpa [hu.mem] using hmem) (by simp) (by simp)
  | first data h7 h hs hl =>
    refine ⟨hpriv, hmem, fun h => by simp at h, fun _ => ?_⟩
    have hlen : (BitVec.ofNat 12 (0x63 :: data : List Byte).length).toNat = data.length + 1 := by
      rw [BitVec.toNat_ofNat, List.length_cons]; omega
    exact ⟨hlen.symm, by simp only [awaitFlowControl_txLen, hlen]; omega, hs, hl⟩

/-! ### Reassembly -/

/-- A reassembly begins with six bytes held and number 1 expected (R123). -/
theorem stateInv_startReassembly {s : State} (h : StateInv s) (len : BitVec 12) (d : Six) (hl : 6 < len.toNat) :
    StateInv (startReassembly len d s) :=
  have first : Config.seqFirst.toNat = (((6 : BitVec 13).toNat - 6) / 7 + 1) % 16 := by decide
  ⟨h.privilege, h.memory, fun _ => ⟨rfl, Nat.le_refl 6, Nat.zero_mod 7, hl, first⟩, fun h => by simp at h⟩

/-- Where there is room, `rx_len` and the buffer grow by the seven bytes together (R26, R28, R125). -/
theorem extendReassembly_held (d : Seven) (s : State) (hbuf : s.rxBuf.length = s.rxLen.toNat)
    (hroom : s.rxLen.toNat + 7 ≤ 4101) :
    (extendReassembly d s).rxBuf = s.rxBuf ++ d.toList ∧ (extendReassembly d s).rxLen.toNat = s.rxLen.toNat + 7 ∧
      (extendReassembly d s).rxBuf.length = s.rxLen.toNat + 7 := by
  have happ : (extendReassembly d s).rxBuf = s.rxBuf ++ d.toList := rxAppended_of_length d s hbuf
  refine ⟨happ, ?_, by rw [happ, List.length_append, hbuf, length_sevenToList]⟩
  rw [extendReassembly_rxLen, BitVec.toNat_ofNat, show Config.cfData = 7 from rfl]
  omega

/-- Seven more bytes and the next number, while the declared size is not reached (R125). -/
theorem stateInv_extendReassembly {s : State} (h : StateInv s) (d : Seven) (hp : s.phase = .rxCf)
    (hl : s.rxLen.toNat + 7 < s.rxSize.toNat) : StateInv (extendReassembly d s) := by
  obtain ⟨hbuf, h6, hmod, _, hseq⟩ := h.reassembly hp
  have hsize := s.rxSize.isLt
  obtain ⟨-, hlen, hheld⟩ := extendReassembly_held d s hbuf (by omega)
  refine ⟨h.privilege, h.memory, fun _ => ⟨hheld.trans hlen.symm, ?_⟩, fun h => by simp [hp] at h⟩
  rw [hlen, extendReassembly_rxSize, extendReassembly_rxSeq, BitVec.toNat_add, hseq,
    show (1 : Nibble).toNat = 1 from rfl]
  exact ⟨by omega, by omega, hl, by omega⟩

/-- In RX_CF there is always room for seven bytes: `rx_len` is `6 + 7k`, below a declared size of at most 4095 (D5). -/
theorem room_of_stateInv {s : State} (h : StateInv s) (hp : s.phase = .rxCf) : s.rxLen.toNat + 7 ≤ 4101 := by
  obtain ⟨_, _, hmod, hless, _⟩ := h.reassembly hp
  have hsize := s.rxSize.isLt
  omega

/-! ### The step -/

theorem StepNext.stateInv {s t : State} (h : StepNext s t) (hs : StateInv s) : StateInv t := by
  cases h with
  | idle => exact stateInv_beginStep hs
  | timeout q => exact stateInv_takeTimeout (stateInv_consume hs q)
  | closure => exact stateInv_of_noTransfer hs.privilege hs.memory (by simp) (by simp)
  | leadInvalid _ q | mismatch _ q | flowMismatch _ q => exact stateInv_raiseTfault (stateInv_consume hs q) _
  | single _ _ _ _ _ _ _ he => exact he.stateInv hs.privilege hs.memory
  | firstDelivers _ _ _ _ _ _ _ he => exact he.stateInv hs.privilege hs.memory
  | completes _ _ _ _ _ _ _ _ _ he => exact he.stateInv hs.privilege hs.memory
  | firstStarts f q _ _ _ hl =>
    have hsent : StateInv (emit flowControlFrame (consume q s)) :=
      ⟨hs.privilege, hs.memory, hs.reassembly, hs.transmission⟩
    exact stateInv_startReassembly hsent _ _ hl
  | grows _ q hp _ _ _ hl => exact stateInv_extendReassembly (stateInv_consume hs q) _ hp hl
  | burst => exact stateInv_of_noTransfer hs.privilege hs.memory (by simp) (by simp)

/-- Settles O52: by the cases of a step. -/
theorem everyStepKeepsTheInvariant : Obligations.EveryStepKeepsTheInvariant := fun _ _ hs h =>
  (stepNext_of_step h).stateInv hs

/-- A dispatched message always answers (R160). -/
theorem dispatchMessage_completes (m : List Byte) (s : State) : ∃ t, dispatchMessage m s = .next t :=
  have ⟨t, ht, _⟩ := dispatchMessage_engine m s
  ⟨t, ht⟩

/-- A first frame always answers (R123). -/
theorem exec_ff_completes (len : BitVec 12) (d : Six) (s : State) : ∃ t, exec (.ff len d) s = .next t := by
  rcases Nat.lt_or_ge 6 len.toNat with hlong | hshort
  · exact ⟨_, exec_ff_starts len d s hlong⟩
  · rw [exec_ff_delivers len d s hshort]
    exact dispatchMessage_completes _ _

/-- A leading frame always answers, whichever row it is (R121). -/
theorem exec_decodeLead_completes (f : Frame) (s : State) : ∃ t, exec (decodeLead f) s = .next t := by
  by_cases h0 : hi f.b0 = 0
  · rw [decodeLead_single f h0, exec_sf]
    exact dispatchMessage_completes _ _
  · by_cases h1 : hi f.b0 = 1
    · rw [decodeLead_first f h1]
      exact exec_ff_completes _ _ s
    · exact ⟨_, exec_decodeLead_invalid f s h0 h1⟩

/-- A consecutive frame that has room in the buffer answers (R125). -/
theorem exec_cf_completes (sn : Nibble) (d : Seven) (s : State) (hroom : s.rxLen.toNat + 7 ≤ 4101) :
    ∃ t, exec (.cf sn d) s = .next t := by
  rcases Nat.lt_or_ge (s.rxLen.toNat + 7) s.rxSize.toNat with hless | hdone
  · exact ⟨_, exec_cf_extends sn d s hroom hless⟩
  · rw [exec_cf_delivers sn d s hroom hdone]
    exact dispatchMessage_completes _ _

/-- Only a consecutive frame without room can stop a step, and the invariant rules it out. -/
theorem step_completes {s : State} (hs : StateInv s) : ∃ t, step s = .next t := by
  rcases step_cases s with ⟨_, e⟩ | ⟨q, _, _, e⟩ | ⟨q, _, _, e⟩ | ⟨f, q, _, _, e⟩ | ⟨f, q, hp, _, e⟩ | ⟨f, q, _, _, e⟩
  · exact ⟨_, e⟩
  · exact ⟨_, e⟩
  · exact ⟨_, e⟩
  · rw [e]
    exact exec_decodeLead_completes f _
  · rw [e]
    by_cases hb : f.b0 = nibbles 2 s.rxSeq
    · rw [decodeCf_expected _ f hb]
      exact exec_cf_completes _ _ (consume q s) (room_of_stateInv (s := s) hs hp)
    · rw [decodeCf_other _ f hb]
      exact ⟨_, exec_cfMismatch f _⟩
  · rw [e]
    by_cases hb : f.b0 = Config.fcCts
    · rw [decodeFc_cts f hb]
      exact ⟨_, rfl⟩
    · rw [decodeFc_other f hb]
      exact ⟨_, exec_fcMismatch f _⟩

/-- Settles O53: by induction on the number of steps, a step from an invariant state answers and keeps the invariant. -/
theorem noRunStops : Obligations.NoRunStops := by
  intro s k
  induction k generalizing s with
  | zero => exact fun hs => ⟨s, rfl, hs⟩
  | succ k ih =>
    intro hs
    obtain ⟨u, hu⟩ := step_completes hs
    rw [run_succ_next hu k]
    exact ih u (everyStepKeepsTheInvariant s u hs hu)

end Sys2Proof.Machine
end

section
/-! PROOF. What the frames the block sends hold (40_framer_write.md R101, R102): the payload comes out of the single frame
and its first six bytes out of the first frame. -/

namespace Sys2Proof.Machine

theorem exists_six {l : List Byte} (h : l.length = 6) : ∃ d : Six, d.toList = l := by
  match l, h with
  | [b2, b3, b4, b5, b6, b7], _ => exact ⟨⟨b2, b3, b4, b5, b6, b7⟩, rfl⟩

/-- The low nibble of a single frame is the payload's length (R101). -/
theorem lo_singleFrame (p : List Byte) (h : p.length ≤ 7) : (lo (singleFrame p).b0).toNat = p.length := by
  rw [show (singleFrame p).b0 = nibbles 0 (BitVec.ofNat 4 p.length) from rfl, lo_nibbles, BitVec.toNat_ofNat]
  omega

/-- Behind it stand the payload and zeros (R101). -/
theorem rest_singleFrame (p : List Byte) (h : p.length ≤ 7) :
    (singleFrame p).rest.toList = p ++ List.replicate (7 - p.length) 0 := toList_padSeven p h

/-- A first frame carries six bytes of its payload behind the two length bytes (R102). -/
theorem firstFrame_eq_frameOfSix {p : List Byte} (h : 6 ≤ p.length) :
    ∃ d : Six, d.toList = p.take 6 ∧ firstFrame p =
      frameOfSix (firstFrameByte0 (BitVec.ofNat 12 p.length)) (firstFrameByte1 (BitVec.ofNat 12 p.length)) d := by
  obtain ⟨d, hd⟩ := exists_six (l := p.take 6) (by rw [List.length_take]; omega)
  exact ⟨d, hd, by rw [firstFrame, ← hd]; rfl⟩

end Sys2Proof.Machine
end

section
/-! PROOF. Decoding and encoding are inverse to each other (30_encoding.md R70 to R83): received frames, sent frames,
responses and requests, each by what its format can hold. -/

namespace Sys2Proof

open Machine (decodeLead_single decodeLead_first firstFrame singleFrame hi_singleFrame hi_firstFrame lo_singleFrame
  rest_singleFrame firstFrame_eq_frameOfSix decode_req_eq_ok_iff)

/-! ### Frames taken in RX_IDLE (R72 to R76) -/

/-- `01` in the two high bits of a byte: type nibble 4 to 7. -/
theorem hi_bits01 : ∀ low : BitVec 6,
    4 ≤ (hi ((1 : BitVec 2) ++ low)).toNat ∧ (hi ((1 : BitVec 2) ++ low)).toNat ≤ 7 := by decide

theorem low_bits01 : ∀ low : BitVec 6, ((1 : BitVec 2) ++ low).extractLsb' 0 6 = low := by decide

theorem bits01_of_hi : ∀ b : Byte, 4 ≤ (hi b).toNat → (hi b).toNat ≤ 7 → b = (1 : BitVec 2) ++ b.extractLsb' 0 6 := by
  decide

/-- `1` in the high bit of a byte: type nibble 8 to 15. -/
theorem hi_bit1 : ∀ low : BitVec 7, 8 ≤ (hi ((1 : BitVec 1) ++ low)).toNat := by decide

theorem low_bit1 : ∀ low : BitVec 7, ((1 : BitVec 1) ++ low).extractLsb' 0 7 = low := by decide

theorem bit1_of_hi : ∀ b : Byte, 8 ≤ (hi b).toNat → b = (1 : BitVec 1) ++ b.extractLsb' 0 7 := by decide

/-- The leading frames and what they decode to (R72 to R76). -/
inductive LeadFrame (f : Frame) : Instr → Prop where
  | sf (l : Nibble) (h : f.b0 = nibbles 0 l) : LeadFrame f (.sf l f.rest)
  | ff (len : BitVec 12) (h0 : f.b0 = firstFrameByte0 len) (h1 : f.rest.b1 = firstFrameByte1 len) :
      LeadFrame f (.ff len (sixOf f.rest))
  | cfLead (sn : Nibble) (h : f.b0 = nibbles 2 sn) : LeadFrame f (.cfLead sn f.rest)
  | fcLead (low : Nibble) (h : f.b0 = nibbles 3 low) : LeadFrame f (.fcLead low f.rest)
  | rsv47Lead (low : BitVec 6) (h : f.b0 = (1 : BitVec 2) ++ low) : LeadFrame f (.rsv47Lead low f.rest)
  | rsv8FLead (low : BitVec 7) (h : f.b0 = (1 : BitVec 1) ++ low) : LeadFrame f (.rsv8FLead low f.rest)

theorem eq_nibbles_of_hi {b : Byte} {n : Nibble} (h : hi b = n) : b = nibbles n (lo b) := by rw [← h, nibbles_hi_lo]

/-- Every frame is a leading frame, by its type nibble (R77). -/
theorem leadFrame_decodeLead (f : Frame) : LeadFrame f (decodeLead f) := by
  by_cases h0 : hi f.b0 = 0
  · rw [decodeLead_single f h0]
    exact .sf _ (eq_nibbles_of_hi h0)
  by_cases h1 : hi f.b0 = 1
  · rw [decodeLead_first f h1]
    obtain ⟨hb0, hb1⟩ := firstFrameBytes_len f.b0 f.rest.b1 h1
    exact .ff _ hb0.symm hb1.symm
  by_cases h2 : hi f.b0 = 2
  · rw [decodeLead_consecutive f h2]
    exact .cfLead _ (eq_nibbles_of_hi h2)
  by_cases h3 : hi f.b0 = 3
  · rw [decodeLead_flowControl f h3]
    exact .fcLead _ (eq_nibbles_of_hi h3)
  have h4 : 4 ≤ (hi f.b0).toNat := by bv_omega
  rcases Nat.lt_or_ge (hi f.b0).toNat 8 with h7 | h8
  · rw [decodeLead_rsv47 f h4 (by omega)]
    exact .rsv47Lead _ (bits01_of_hi _ h4 (by omega))
  · rw [decodeLead_rsv8F f h8]
    exact .rsv8FLead _ (bit1_of_hi _ h8)

theorem LeadFrame.decodes {f : Frame} {i : Instr} (h : LeadFrame f i) : decodeLead f = i := by
  cases h with
  | sf l h => rw [decodeLead_single f (by rw [h, hi_nibbles]), h, lo_nibbles]
  | ff len h0 h1 => rw [decodeLead_first f (by rw [h0, hi_firstFrameByte0]), h0, h1, firstFrameLen_bytes]
  | cfLead sn h => rw [decodeLead_consecutive f (by rw [h, hi_nibbles]), h, lo_nibbles]
  | fcLead low h => rw [decodeLead_flowControl f (by rw [h, hi_nibbles]), h, lo_nibbles]
  | rsv47Lead low h =>
    obtain ⟨h4, h7⟩ := hi_bits01 low
    rw [decodeLead_rsv47 f (by rwa [h]) (by rwa [h]), h, low_bits01]
  | rsv8FLead low h => rw [decodeLead_rsv8F f (by rw [h]; exact hi_bit1 low), h, low_bit1]

theorem LeadFrame.encode_eq {f : Frame} {i : Instr} (h : LeadFrame f i) : encode i = f.bytes := by
  cases h with
  | ff len h0 h1 => rw [encode, ← h0, ← h1]; rfl
  | sf _ h | cfLead _ h | fcLead _ h | rsv47Lead _ h | rsv8FLead _ h => rw [encode, ← h]; rfl

theorem LeadFrame.admitted {f : Frame} {i : Instr} (h : LeadFrame f i) :
    wellFormed i = true ∧ admits .rxIdle i = true := by cases h <;> exact ⟨rfl, rfl⟩

theorem leadFrame_of_admits {i : Instr} (h : admits .rxIdle i = true) : ∃ f, LeadFrame f i := by
  cases i with
  | sf l d => exact ⟨⟨nibbles 0 l, d⟩, .sf l rfl⟩
  | ff len d => exact ⟨frameOfSix (firstFrameByte0 len) (firstFrameByte1 len) d, .ff len rfl rfl⟩
  | cfLead sn d => exact ⟨⟨nibbles 2 sn, d⟩, .cfLead sn rfl⟩
  | fcLead low d => exact ⟨⟨nibbles 3 low, d⟩, .fcLead low rfl⟩
  | rsv47Lead low d => exact ⟨⟨(1 : BitVec 2) ++ low, d⟩, .rsv47Lead low rfl⟩
  | rsv8FLead low d => exact ⟨⟨(1 : BitVec 1) ++ low, d⟩, .rsv8FLead low rfl⟩
  | _ => cases h

/-! ### Frames taken in the other two waits (R74, R75) -/

theorem decodeCf_encode {seq : Nibble} {i : Instr} (h : admits (.rxCf seq) i = true) :
    decode (.rxCf seq) (encode i) = .ok i := by
  cases i with
  | cf sn d =>
    obtain rfl : sn = seq := by simpa [admits] using h
    exact congrArg Except.ok (decodeCf_expected sn ⟨nibbles 2 sn, d⟩ rfl)
  | cfMismatch f =>
    have hb : f.b0 ≠ nibbles 2 seq := by simpa [admits] using h
    exact congrArg Except.ok (decodeCf_other seq f hb)
  | _ => cases h

theorem encode_decodeCf (seq : Nibble) (f : Frame) :
    encode (decodeCf seq f) = f.bytes ∧ wellFormed (decodeCf seq f) = true ∧ admits (.rxCf seq) (decodeCf seq f) = true := by
  by_cases hb : f.b0 = nibbles 2 seq
  · rw [decodeCf_expected seq f hb, encode, ← hb]
    exact ⟨rfl, rfl, by simp [admits]⟩
  · rw [decodeCf_other seq f hb]
    exact ⟨rfl, rfl, by simpa [admits] using hb⟩

theorem decodeFc_encode {i : Instr} (hw : wellFormed i = true) (h : admits .txWaitFc i = true) :
    decode .txWaitFc (encode i) = .ok i := by
  cases i with
  | fc d => exact congrArg Except.ok (decodeFc_cts ⟨Config.fcCts, d⟩ rfl)
  | fcMismatch f =>
    have hb : f.b0 ≠ Config.fcCts := by simpa [wellFormed] using hw
    exact congrArg Except.ok (decodeFc_other f hb)
  | _ => cases h

theorem encode_decodeFc (f : Frame) :
    encode (decodeFc f) = f.bytes ∧ wellFormed (decodeFc f) = true ∧ admits .txWaitFc (decodeFc f) = true := by
  by_cases hb : f.b0 = Config.fcCts
  · rw [decodeFc_cts f hb, encode, ← hb]
    exact ⟨rfl, rfl, rfl⟩
  · rw [decodeFc_other f hb]
    exact ⟨rfl, by simpa [wellFormed] using hb, rfl⟩

/-! ### Sent frames (R72 to R75, log 14) -/

theorem encode_sfTx (q : List Byte) (h : q.length ≤ 7) : encode (.sfTx q) = (singleFrame q).bytes :=
  (bytes_pad8 _ q h).symm

theorem encode_ffTx (p : List Byte) (h : 6 ≤ p.length) : encode (.ffTx p) = (firstFrame p).bytes := by
  obtain ⟨d, hd, hf⟩ := firstFrame_eq_frameOfSix h
  rw [hf, encode, show p.take Config.ffData = d.toList from hd.symm]
  rfl

theorem decodeTx_singleFrame (p q : List Byte) (h : q.length ≤ 7) : decodeTx p (singleFrame q) = .ok (.sfTx q) := by
  have hl := lo_singleFrame q h
  have hr := rest_singleFrame q h
  rw [decodeTx_single p _ (hi_singleFrame q) (hl.trans_le h), hl, hr, List.take_left]
  intro j hj h7
  rw [hr, List.getElem?_append_right (by omega), List.getElem?_replicate, if_pos (by omega)]

theorem decodeTx_firstFrame (p : List Byte) (h7 : 7 < p.length) (h : p.length ≤ 4095) :
    decodeTx p (firstFrame p) = .ok (.ffTx p) := by
  obtain ⟨d, hd, hf⟩ := firstFrame_eq_frameOfSix (p := p) (by omega)
  refine decodeTx_first p _ (hi_firstFrame p) ?_ h7 (by rw [hf, ← hd]; rfl)
  rw [hf, ← firstFrameLen_toNat]
  simp only [frameOfSix, firstFrameLen_bytes, BitVec.toNat_ofNat]
  omega

theorem decodeTx_encode {p : List Byte} {i : Instr} (hw : wellFormed i = true) (h : admits (.tx p) i = true) :
    decode (.tx p) (encode i) = .ok i := by
  cases i with
  | sfTx q =>
    have hq : q.length ≤ 7 := of_decide_eq_true hw
    rw [encode_sfTx q hq, decode_tx_bytes, decodeTx_singleFrame p q hq]
  | ffTx q =>
    obtain rfl : q = p := by simpa [admits] using h
    obtain ⟨h7, hmax⟩ : 7 < q.length ∧ q.length ≤ 4095 := by simpa [wellFormed] using hw
    rw [encode_ffTx q (by omega), decode_tx_bytes, decodeTx_firstFrame q h7 hmax]
  | cfTx sn d => exact (decodeTx_consecutive p ⟨nibbles 2 sn, d⟩ (hi_nibbles 2 sn)).trans (by rw [lo_nibbles])
  | fcTx => exact decodeTx_flowControl p
  | _ => cases h

theorem encode_of_decodeTx {p : List Byte} {f : Frame} {i : Instr} (h : decodeTx p f = .ok i) :
    encode i = f.bytes ∧ wellFormed i = true ∧ admits (.tx p) i = true := by
  unfold decodeTx decodeTxSingle decodeTxFirst at h
  split_ifs at h with h0 hl hz h1 hs hp h2 hb hz
  all_goals obtain rfl := Except.ok.inj h
  · have hlen : (f.rest.toList.take (lo f.b0).toNat).length = (lo f.b0).toNat := by
      rw [List.length_take, length_sevenToList]; omega
    refine ⟨?_, decide_eq_true (by rw [hlen]; exact Nat.not_lt.1 hl), rfl⟩
    rw [encode, hlen, BitVec.ofNat_toNat, BitVec.setWidth_eq, ← eq_nibbles_of_hi h0, ← hz, List.take_append_drop]
    rfl
  · obtain ⟨hlen, hd⟩ := hp
    obtain ⟨hb0, hb1⟩ := firstFrameBytes_len f.b0 f.rest.b1 h1
    have hmax := (firstFrameLen f.b0 f.rest.b1).isLt
    refine ⟨?_, Bool.and_eq_true_iff.2 ⟨decide_eq_true (hlen ▸ Nat.lt_of_not_le hs),
      decide_eq_true (hlen ▸ Nat.le_of_lt_succ hmax)⟩, by simp [admits]⟩
    rw [encode, hlen, BitVec.ofNat_toNat, BitVec.setWidth_eq, hb0, hb1, hd]
    rfl
  · exact ⟨by rw [encode, ← eq_nibbles_of_hi h2]; rfl, rfl, rfl⟩
  · exact ⟨by rw [encode, ← hb, ← hz]; rfl, rfl, rfl⟩

/-! ### Responses (R83) -/

theorem sentResponse_encode {i : Instr} (hw : wellFormed i = true) (h : admits .rsp i = true) :
    SentResponse (encode i) i := by
  cases i with
  | posDsc sf => exact .posDsc sf ((otherSubFn_eq_false sf).1 (by simpa [wellFormed] using hw))
  | posRmba data => exact .posRmba data (of_decide_eq_true hw)
  | posSaSeed => exact .posSaSeed
  | posSaKey => exact .posSaKey
  | neg sid n => exact .neg sid _ n (of_decide_eq_true hw) (nrcName_nrcCode n)
  | _ => cases h

theorem SentResponse.encode_eq {m : List Byte} {i : Instr} (h : SentResponse m i) :
    encode i = m ∧ wellFormed i = true ∧ admits .rsp i = true := by
  cases h with
  | posDsc sf h => exact ⟨rfl, by simp [wellFormed, (otherSubFn_eq_false sf).2 h], rfl⟩
  | posRmba data h => exact ⟨rfl, decide_eq_true h, rfl⟩
  | posSaSeed => exact ⟨rfl, rfl, rfl⟩
  | posSaKey => exact ⟨rfl, rfl, rfl⟩
  | neg sid code n hs hn => exact ⟨by rw [encode, nrcCode_of_nrcName hn], decide_eq_true hs, rfl⟩

/-! ### Requests (R79 to R82) -/

/-- The messages and what they decode to as requests (R79 to R82). -/
inductive Request : List Byte → Instr → Prop where
  | empty : Request [] .empty
  | ignored80FF (sid : BitVec 7) (rest : List Byte) : Request (((1 : BitVec 1) ++ sid) :: rest) (.ignored80FF sid rest)
  | ignored407F (sid : BitVec 6) (rest : List Byte) : Request (((1 : BitVec 2) ++ sid) :: rest) (.ignored407F sid rest)
  | shortDsc : Request [Config.sidDsc] .shortDsc
  | shortRmba : Request [Config.sidRmba] .shortRmba
  | shortSa : Request [Config.sidSa] .shortSa
  | dsc01 (rest : List Byte) : Request (Config.sidDsc :: 0x01 :: rest) (.dsc01 rest)
  | dsc02 (rest : List Byte) : Request (Config.sidDsc :: 0x02 :: rest) (.dsc02 rest)
  | dscOther (sf : Byte) (rest : List Byte) (h1 : sf ≠ 0x01) (h2 : sf ≠ 0x02) :
      Request (Config.sidDsc :: sf :: rest) (.dscOther sf rest)
  | saSeed (rest : List Byte) : Request (Config.sidSa :: 0x01 :: rest) (.saSeed rest)
  | saKey (key : List Byte) : Request (Config.sidSa :: 0x02 :: key) (.saKey key)
  | saOther (sf : Byte) (rest : List Byte) (h1 : sf ≠ 0x01) (h2 : sf ≠ 0x02) :
      Request (Config.sidSa :: sf :: rest) (.saOther sf rest)
  | rmba (a z : Nibble) (spans : List Byte) : Request (Config.sidRmba :: nibbles a z :: spans) (.rmba a z spans)
  | unsupported (sid : Byte) (rest : List Byte) (hmax : sid ≤ Config.sidReqMax) (hs : supportedSid sid = false) :
      Request (sid :: rest) (.unsupported sid rest)

theorem request_decodeDsc (p : List Byte) : Request (Config.sidDsc :: p) (decodeDsc p) := by
  cases p with
  | nil => exact .shortDsc
  | cons sf rest =>
    simp only [decodeDsc]
    split_ifs with h1 h2
    · exact h1 ▸ .dsc01 rest
    · exact h2 ▸ .dsc02 rest
    · exact .dscOther sf rest h1 h2

theorem request_decodeSa (p : List Byte) : Request (Config.sidSa :: p) (decodeSa p) := by
  cases p with
  | nil => exact .shortSa
  | cons sf rest =>
    simp only [decodeSa]
    split_ifs with h1 h2
    · exact h1 ▸ .saSeed rest
    · exact h2 ▸ .saKey rest
    · exact .saOther sf rest h1 h2

theorem request_decodeRmba (p : List Byte) : Request (Config.sidRmba :: p) (decodeRmba p) := by
  cases p with
  | nil => exact .shortRmba
  | cons fmt spans =>
    have := Request.rmba (hi fmt) (lo fmt) spans
    rwa [nibbles_hi_lo] at this

/-- Bit 7 set is type nibble 8 to 15; above SID_REQ_MAX without it is 4 to 7 (R79). -/
theorem hi_of_bit7 : ∀ b : Byte, b.extractLsb' 7 1 = 1 → 8 ≤ (hi b).toNat := by decide

theorem hi_of_ignored407F : ∀ b : Byte, b.extractLsb' 7 1 ≠ 1 → Config.sidReqMax < b →
    4 ≤ (hi b).toNat ∧ (hi b).toNat ≤ 7 := by decide

/-- Every message is one of these requests. -/
theorem request_decodeReq (m : List Byte) : Request m (decodeReq m) := by
  cases m with
  | nil => exact .empty
  | cons sid p =>
    simp only [decodeReq]
    split_ifs with h80 h40 hDsc hRmba hSa
    · have := Request.ignored80FF (sid.extractLsb' 0 7) p
      rwa [← bit1_of_hi sid (hi_of_bit7 sid h80)] at this
    · have := Request.ignored407F (sid.extractLsb' 0 6) p
      obtain ⟨h4, h7⟩ := hi_of_ignored407F sid h80 h40
      rwa [← bits01_of_hi sid h4 h7] at this
    · exact hDsc ▸ request_decodeDsc p
    · exact hRmba ▸ request_decodeRmba p
    · exact hSa ▸ request_decodeSa p
    · exact .unsupported sid p (BitVec.not_lt.1 h40) ((Machine.supportedSid_false sid).2 ⟨hDsc, hRmba, hSa⟩)

theorem bit7_of_bit1 : ∀ low : BitVec 7, ((1 : BitVec 1) ++ low).extractLsb' 7 1 = 1 := by decide

theorem ignored407F_of_bits01 : ∀ low : BitVec 6,
    ((1 : BitVec 2) ++ low).extractLsb' 7 1 ≠ 1 ∧ Config.sidReqMax < (1 : BitVec 2) ++ low := by decide

theorem bit7_of_request : ∀ b : Byte, b ≤ Config.sidReqMax → b.extractLsb' 7 1 ≠ 1 := by decide

theorem Request.decodes {m : List Byte} {i : Instr} (h : Request m i) : decodeReq m = i := by
  cases h with
  | empty | shortDsc | shortRmba | shortSa | dsc01 | dsc02 | saSeed | saKey => rfl
  | ignored80FF sid rest => simp only [decodeReq]; rw [if_pos (bit7_of_bit1 sid), low_bit1]
  | ignored407F sid rest =>
    obtain ⟨h7, hmax⟩ := ignored407F_of_bits01 sid
    simp only [decodeReq]
    rw [if_neg h7, if_pos hmax, low_bits01]
  | dscOther sf rest h1 h2 =>
    change decodeDsc (sf :: rest) = _
    rw [decodeDsc, if_neg h1, if_neg h2]
  | saOther sf rest h1 h2 =>
    change decodeSa (sf :: rest) = _
    rw [decodeSa, if_neg h1, if_neg h2]
  | rmba a z spans =>
    change decodeRmba (nibbles a z :: spans) = _
    rw [decodeRmba, hi_nibbles, lo_nibbles]
  | unsupported sid rest hmax hs =>
    obtain ⟨hDsc, hRmba, hSa⟩ := (Machine.supportedSid_false sid).1 hs
    simp only [decodeReq]
    rw [if_neg (bit7_of_request sid hmax), if_neg (BitVec.not_lt.2 hmax), if_neg hDsc, if_neg hRmba, if_neg hSa]

theorem otherSubFn_eq_true (b : Byte) : otherSubFn b = true ↔ b ≠ 0x01 ∧ b ≠ 0x02 := by simp [otherSubFn]

theorem Request.encode_eq {m : List Byte} {i : Instr} (h : Request m i) (hm : m.length ≤ Config.rxCap) :
    encode i = m ∧ wellFormed i = true ∧ admits .req i = true := by
  cases h with
  | empty | shortDsc | shortRmba | shortSa => exact ⟨rfl, rfl, rfl⟩
  | ignored80FF | ignored407F | dsc01 | dsc02 | saSeed | saKey | rmba => exact ⟨rfl, decide_eq_true hm, rfl⟩
  | dscOther sf rest h1 h2 | saOther sf rest h1 h2 =>
    exact ⟨rfl, Bool.and_eq_true_iff.2 ⟨(otherSubFn_eq_true sf).2 ⟨h1, h2⟩, decide_eq_true hm⟩, rfl⟩
  | unsupported sid rest hmax hs =>
    refine ⟨rfl, ?_, rfl⟩
    rw [wellFormed, hs, decide_eq_true hmax, Bool.not_false]
    exact decide_eq_true hm

theorem request_encode {i : Instr} (hw : wellFormed i = true) (h : admits .req i = true) :
    Request (encode i) i ∧ (encode i).length ≤ Config.rxCap := by
  cases i with
  | empty => exact ⟨.empty, by decide⟩
  | ignored80FF sid rest => exact ⟨.ignored80FF sid rest, of_decide_eq_true hw⟩
  | ignored407F sid rest => exact ⟨.ignored407F sid rest, of_decide_eq_true hw⟩
  | shortDsc => exact ⟨.shortDsc, by decide⟩
  | shortRmba => exact ⟨.shortRmba, by decide⟩
  | shortSa => exact ⟨.shortSa, by decide⟩
  | dsc01 rest => exact ⟨.dsc01 rest, of_decide_eq_true hw⟩
  | dsc02 rest => exact ⟨.dsc02 rest, of_decide_eq_true hw⟩
  | saSeed rest => exact ⟨.saSeed rest, of_decide_eq_true hw⟩
  | saKey key => exact ⟨.saKey key, of_decide_eq_true hw⟩
  | rmba a z spans => exact ⟨.rmba a z spans, of_decide_eq_true hw⟩
  | dscOther sf rest =>
    obtain ⟨hsf, hlen⟩ := Bool.and_eq_true_iff.1 hw
    obtain ⟨h1, h2⟩ := (otherSubFn_eq_true sf).1 hsf
    exact ⟨.dscOther sf rest h1 h2, of_decide_eq_true hlen⟩
  | saOther sf rest =>
    obtain ⟨hsf, hlen⟩ := Bool.and_eq_true_iff.1 hw
    obtain ⟨h1, h2⟩ := (otherSubFn_eq_true sf).1 hsf
    exact ⟨.saOther sf rest h1 h2, of_decide_eq_true hlen⟩
  | unsupported sid rest =>
    obtain ⟨hsid, hlen⟩ := Bool.and_eq_true_iff.1 hw
    obtain ⟨hmax, hs⟩ := Bool.and_eq_true_iff.1 hsid
    exact ⟨.unsupported sid rest (of_decide_eq_true hmax) (by simpa using hs), of_decide_eq_true hlen⟩
  | _ => cases h

/-! ### The statements -/

/-- Settles O3: in each context, the encoding is one of the byte sequences of its format, which decodes to the
instruction. -/
theorem decodeOfEncodeIsTheInstruction : Obligations.DecodeOfEncodeIsTheInstruction := by
  intro c i hw h
  cases c with
  | rxIdle =>
    obtain ⟨f, hf⟩ := leadFrame_of_admits h
    rw [hf.encode_eq]
    exact congrArg Except.ok hf.decodes
  | rxCf seq => exact decodeCf_encode h
  | txWaitFc => exact decodeFc_encode hw h
  | tx p => exact decodeTx_encode hw h
  | req =>
    obtain ⟨hr, hlen⟩ := request_encode hw h
    exact (decode_req_eq_ok_iff _ i).2 ⟨hlen, hr.decodes⟩
  | rsp => exact (sentResponse_encode hw h).decodes

/-- What decodes in a context of frames is the eight bytes of a frame (R70). -/
theorem frame_of_decode {c : Context} {bytes : List Byte} {i : Instr} (hreq : c ≠ .req) (hrsp : c ≠ .rsp)
    (h : decode c bytes = .ok i) : ∃ f : Frame, f.bytes = bytes := by
  cases hf : frameOf? bytes with
  | some f => exact ⟨f, bytes_of_frameOf hf⟩
  | none =>
    cases c with
    | req => exact absurd rfl hreq
    | rsp => exact absurd rfl hrsp
    | rxIdle | rxCf | txWaitFc | tx => simp [decode, hf] at h

/-- Settles O4: in each context, what decodes is one of the byte sequences of its format, and so the encoding of its
instruction. -/
theorem encodeOfDecodeIsTheBytes : Obligations.EncodeOfDecodeIsTheBytes := by
  intro c bytes i h
  cases c with
  | rxIdle =>
    obtain ⟨f, rfl⟩ := frame_of_decode (by simp) (by simp) h
    obtain rfl := Except.ok.inj h
    exact ⟨(leadFrame_decodeLead f).encode_eq, (leadFrame_decodeLead f).admitted⟩
  | rxCf seq =>
    obtain ⟨f, rfl⟩ := frame_of_decode (by simp) (by simp) h
    obtain rfl := Except.ok.inj h
    exact encode_decodeCf seq f
  | txWaitFc =>
    obtain ⟨f, rfl⟩ := frame_of_decode (by simp) (by simp) h
    obtain rfl := Except.ok.inj h
    exact encode_decodeFc f
  | tx p =>
    obtain ⟨f, rfl⟩ := frame_of_decode (by simp) (by simp) h
    exact encode_of_decodeTx h
  | req =>
    obtain ⟨hlen, rfl⟩ := (decode_req_eq_ok_iff bytes i).1 h
    exact (request_decodeReq bytes).encode_eq hlen
  | rsp => exact (sentResponse_of_decodeRsp h).encode_eq

end Sys2Proof
end

section
/-! PROOF. What the block receives decodes by the first matching row of its format (30_encoding.md R88). -/

namespace Sys2Proof

/-! ### The first matching row of each received format (`tableRow` does not depend on the operands) -/

theorem and_bits01 : ∀ b : Byte, b &&& 0xC0 = 0x40 ↔ 4 ≤ (hi b).toNat ∧ (hi b).toNat ≤ 7 := by decide

theorem and_bit1 : ∀ b : Byte, b &&& 0x80 = 0x80 ↔ 8 ≤ (hi b).toNat := by decide

/-- The first matching row of FRAME64/RX_IDLE, by the type nibble. -/
theorem firstRow_rxIdle (f : Frame) :
    firstRow .rxIdle (frameWord f) 8 =
      if hi f.b0 = 0 then some (tableRow (.sf 0 f.rest))
      else if hi f.b0 = 1 then some (tableRow (.ff 0 (sixOf f.rest)))
      else if hi f.b0 = 2 then some (tableRow (.cfLead 0 f.rest))
      else if hi f.b0 = 3 then some (tableRow (.fcLead 0 f.rest))
      else if 4 ≤ (hi f.b0).toNat ∧ (hi f.b0).toNat ≤ 7 then some (tableRow (.rsv47Lead 0 f.rest))
      else if 8 ≤ (hi f.b0).toNat then some (tableRow (.rsv8FLead 0 f.rest))
      else none := by
  have single : frameWord f &&& 0xF000000000000000 = 0 ↔ hi f.b0 = 0 :=
    (frameWord_and_byte0 f 0xF0 0).trans (and_typeMask f.b0 0)
  have first : frameWord f &&& 0xF000000000000000 = 0x1000000000000000 ↔ hi f.b0 = 1 :=
    (frameWord_and_byte0 f 0xF0 0x10).trans (and_typeMask f.b0 1)
  have consecutive : frameWord f &&& 0xF000000000000000 = 0x2000000000000000 ↔ hi f.b0 = 2 :=
    (frameWord_and_byte0 f 0xF0 0x20).trans (and_typeMask f.b0 2)
  have flowControl : frameWord f &&& 0xF000000000000000 = 0x3000000000000000 ↔ hi f.b0 = 3 :=
    (frameWord_and_byte0 f 0xF0 0x30).trans (and_typeMask f.b0 3)
  have rsv47 : frameWord f &&& 0xC000000000000000 = 0x4000000000000000 ↔ 4 ≤ (hi f.b0).toNat ∧ (hi f.b0).toNat ≤ 7 :=
    (frameWord_and_byte0 f 0xC0 0x40).trans (and_bits01 f.b0)
  have rsv8F : frameWord f &&& 0x8000000000000000 = 0x8000000000000000 ↔ 8 ≤ (hi f.b0).toNat :=
    (frameWord_and_byte0 f 0x80 0x80).trans (and_bit1 f.b0)
  simp only [firstRow, Context.format, rows, find?_cons_ite, frameRow_applies, List.find?_nil, single, first, consecutive,
    flowControl, rsv47, rsv8F, tableRow]

/-- A leading frame matches the row it decodes to first: the type nibbles of the rows exclude each other. -/
theorem LeadFrame.firstRow_eq {f : Frame} {i : Instr} (h : LeadFrame f i) :
    firstRow .rxIdle (frameWord f) 8 = some (tableRow i) := by
  rw [firstRow_rxIdle]
  cases h with
  | sf l h => rw [h, hi_nibbles]; rfl
  | ff len h0 h1 => rw [h0, hi_firstFrameByte0]; rfl
  | cfLead sn h => rw [h, hi_nibbles]; rfl
  | fcLead low h => rw [h, hi_nibbles]; rfl
  | rsv47Lead low h =>
    obtain ⟨h4, h7⟩ := hi_bits01 low
    have hne (n : Nibble) (hn : n.toNat < 4) : hi ((1 : BitVec 2) ++ low) ≠ n := fun e => by rw [e] at h4; omega
    rw [h, if_neg (hne 0 (by decide)), if_neg (hne 1 (by decide)), if_neg (hne 2 (by decide)),
      if_neg (hne 3 (by decide)), if_pos ⟨h4, h7⟩]
    rfl
  | rsv8FLead low h =>
    have h8 := hi_bit1 low
    have hne (n : Nibble) (hn : n.toNat < 4) : hi ((1 : BitVec 1) ++ low) ≠ n := fun e => by rw [e] at h8; omega
    rw [h, if_neg (hne 0 (by decide)), if_neg (hne 1 (by decide)), if_neg (hne 2 (by decide)),
      if_neg (hne 3 (by decide)), if_neg (by omega), if_pos h8]
    rfl

/-- Bits 63:56 of a frame's word are its byte 0, so bits 59:56 are that byte's low nibble (R13). -/
theorem frameWord_sn (f : Frame) : (frameWord f).extractLsb' 56 4 = lo f.b0 := by
  unfold frameWord lo
  iterate 7 rw [BitVec.extractLsb'_append_eq_of_le (by decide)]

theorem eq_nibbles_iff (b : Byte) (h l : Nibble) : b = nibbles h l ↔ hi b = h ∧ lo b = l := by
  refine ⟨fun e => by rw [e, hi_nibbles, lo_nibbles]; exact ⟨rfl, rfl⟩, fun ⟨hh, hl⟩ => ?_⟩
  rw [← hh, ← hl, nibbles_hi_lo]

/-- The row of the accepted consecutive frame tests byte 0: type 2 by its mask, the number by its dynamic test (R88). -/
theorem acceptedCfRow_applies (seq : Nibble) (f : Frame) :
    (acceptedCfRow.matchesWord (frameWord f) 8 && acceptedCfRow.dynamicOk (.rxCf seq) (frameWord f)) = true ↔
      f.b0 = nibbles 2 seq := by
  have type2 : frameWord f &&& 0xF000000000000000 = 0x2000000000000000 ↔ hi f.b0 = 2 :=
    (frameWord_and_byte0 f 0xF0 0x20).trans (and_typeMask f.b0 2)
  simp only [Row.matchesWord, Row.dynamicOk, acceptedCfRow, Bool.and_eq_true, beq_iff_eq, type2, frameWord_sn,
    eq_nibbles_iff]
  simp

theorem firstRow_rxCf (seq : Nibble) (f : Frame) :
    firstRow (.rxCf seq) (frameWord f) 8 = some (tableRow (decodeCf seq f)) := by
  have other : frameWord f &&& 0 = 0 := BitVec.and_zero
  simp only [firstRow, Context.format, rows, find?_cons_ite, acceptedCfRow_applies, frameRow_applies, other]
  by_cases hb : f.b0 = nibbles 2 seq
  · rw [decodeCf_expected seq f hb, if_pos hb]; rfl
  · rw [decodeCf_other seq f hb, if_neg hb]; rfl

theorem firstRow_txWaitFc (f : Frame) : firstRow .txWaitFc (frameWord f) 8 = some (tableRow (decodeFc f)) := by
  have other : frameWord f &&& 0 = 0 := BitVec.and_zero
  have cts : frameWord f &&& 0xFF00000000000000 = 0x3000000000000000 ↔ f.b0 = Config.fcCts := by
    rw [← and_byteMask f.b0]
    exact frameWord_and_byte0 f 0xFF 0x30
  simp only [firstRow, Context.format, rows, find?_cons_ite, frameRow_applies, cts, other]
  by_cases hb : f.b0 = Config.fcCts
  · rw [decodeFc_cts f hb, if_pos hb]; rfl
  · rw [decodeFc_other f hb, if_neg hb]; rfl

/-! ### Requests -/

/-- A row without dynamic test, whether or not it has a greatest length. -/
theorem row_applies_most (r : Row) (c : Context) (w : BitVec 64) (n : Nat) (ht : r.test = .nothing) :
    (r.matchesWord w n && r.dynamicOk c w) = true ↔ w &&& r.mask = r.pattern ∧ r.least ≤ n ∧ ∀ k ∈ r.most, n ≤ k := by
  cases hm : r.most <;> simp [Row.matchesWord, Row.dynamicOk, hm, ht, and_assoc]

theorem reqRow_applies (pattern mask : BitVec 64) (least : Nat) (most : Option Nat) (w : BitVec 64) (n : Nat) :
    ((reqRow pattern mask least most).matchesWord w n && (reqRow pattern mask least most).dynamicOk .req w) = true ↔
      w &&& mask = pattern ∧ least ≤ n ∧ ∀ k ∈ most, n ≤ k :=
  row_applies_most (reqRow pattern mask least most) .req w n rfl

/-- The first matching row of MSG16/REQ, by the first two bytes and the length. -/
theorem firstRow_req (sid : Byte) (p : List Byte) :
    firstRow .req (messageWord (sid :: p)) (sid :: p).length =
      if 8 ≤ (hi sid).toNat then some (tableRow (.ignored80FF 0 p))
      else if 4 ≤ (hi sid).toNat ∧ (hi sid).toNat ≤ 7 then some (tableRow (.ignored407F 0 p))
      else if sid = 0x10 ∧ p.length = 0 then some (tableRow .shortDsc)
      else if sid = 0x23 ∧ p.length = 0 then some (tableRow .shortRmba)
      else if sid = 0x27 ∧ p.length = 0 then some (tableRow .shortSa)
      else if (sid = 0x10 ∧ p.getD 0 0 = 0x01) ∧ 1 ≤ p.length then some (tableRow (.dsc01 p))
      else if (sid = 0x10 ∧ p.getD 0 0 = 0x02) ∧ 1 ≤ p.length then some (tableRow (.dsc02 p))
      else if sid = 0x10 ∧ 1 ≤ p.length then some (tableRow (.dscOther 0 p))
      else if (sid = 0x27 ∧ p.getD 0 0 = 0x01) ∧ 1 ≤ p.length then some (tableRow (.saSeed p))
      else if (sid = 0x27 ∧ p.getD 0 0 = 0x02) ∧ 1 ≤ p.length then some (tableRow (.saKey p))
      else if sid = 0x27 ∧ 1 ≤ p.length then some (tableRow (.saOther 0 p))
      else if sid = 0x23 ∧ 1 ≤ p.length then some (tableRow (.rmba 0 0 p))
      else some (tableRow (.unsupported sid p)) := by
  have byte0 (mask b : Byte) :
      messageWord (sid :: p) &&& messageWord [mask, 0] = messageWord [b, 0] ↔ sid &&& mask = b := by
    rw [messageWord_and]
    simp
  have whole0 (b : Byte) : messageWord (sid :: p) &&& messageWord [0xFF, 0] = messageWord [b, 0] ↔ sid = b := by
    rw [byte0, and_byteMask]
  have bytes01 (b c : Byte) :
      messageWord (sid :: p) &&& messageWord [0xFF, 0xFF] = messageWord [b, c] ↔ sid = b ∧ p.getD 0 0 = c := by
    rw [messageWord_and, and_byteMask, and_byteMask]
    rfl
  have ignored80FF : messageWord (sid :: p) &&& 0x8000 = 0x8000 ↔ 8 ≤ (hi sid).toNat :=
    (byte0 0x80 0x80).trans (and_bit1 sid)
  have ignored407F : messageWord (sid :: p) &&& 0xC000 = 0x4000 ↔ 4 ≤ (hi sid).toNat ∧ (hi sid).toNat ≤ 7 :=
    (byte0 0xC0 0x40).trans (and_bits01 sid)
  have dsc : messageWord (sid :: p) &&& 0xFF00 = 0x1000 ↔ sid = 0x10 := whole0 0x10
  have rmba : messageWord (sid :: p) &&& 0xFF00 = 0x2300 ↔ sid = 0x23 := whole0 0x23
  have sa : messageWord (sid :: p) &&& 0xFF00 = 0x2700 ↔ sid = 0x27 := whole0 0x27
  have dsc01 : messageWord (sid :: p) &&& 0xFFFF = 0x1001 ↔ sid = 0x10 ∧ p.getD 0 0 = 0x01 := bytes01 0x10 0x01
  have dsc02 : messageWord (sid :: p) &&& 0xFFFF = 0x1002 ↔ sid = 0x10 ∧ p.getD 0 0 = 0x02 := bytes01 0x10 0x02
  have saSeed : messageWord (sid :: p) &&& 0xFFFF = 0x2701 ↔ sid = 0x27 ∧ p.getD 0 0 = 0x01 := bytes01 0x27 0x01
  have saKey : messageWord (sid :: p) &&& 0xFFFF = 0x2702 ↔ sid = 0x27 ∧ p.getD 0 0 = 0x02 := bytes01 0x27 0x02
  have any : messageWord (sid :: p) &&& 0x0000 = 0x0000 := BitVec.and_zero
  simp only [firstRow, Context.format, rows, find?_cons_ite, reqRow_applies, List.find?_nil, List.length_cons,
    ignored80FF, ignored407F, dsc, rmba, sa, dsc01, dsc02, saSeed, saKey, any, tableRow]
  simp

theorem hi_of_request : ∀ b : Byte, b ≤ Config.sidReqMax → (hi b).toNat < 4 := by decide

/-- A message matches the row it decodes to first. -/
theorem Request.firstRow_eq {m : List Byte} {i : Instr} (h : Request m i) :
    firstRow .req (messageWord m) m.length = some (tableRow i) := by
  cases h with
  | empty | shortDsc | shortRmba | shortSa => rfl
  | dsc01 | dsc02 | saSeed | saKey | rmba => rw [firstRow_req]; rfl
  | ignored80FF sid rest => rw [firstRow_req, if_pos (hi_bit1 sid)]; rfl
  | ignored407F sid rest =>
    obtain ⟨h4, h7⟩ := hi_bits01 sid
    rw [firstRow_req, if_neg (by omega), if_pos ⟨h4, h7⟩]; rfl
  | dscOther sf rest h1 h2 =>
    rw [firstRow_req, if_neg (by decide), if_neg (by decide), if_neg (by simp), if_neg (by simp), if_neg (by simp),
      if_neg fun h => h1 h.1.2, if_neg fun h => h2 h.1.2, if_pos ⟨rfl, Nat.succ_pos _⟩]; rfl
  | saOther sf rest h1 h2 =>
    rw [firstRow_req, if_neg (by decide), if_neg (by decide), if_neg (by simp), if_neg (by simp), if_neg (by simp),
      if_neg (by simp), if_neg (by simp), if_neg (by simp), if_neg fun h => h1 h.1.2, if_neg fun h => h2 h.1.2,
      if_pos ⟨rfl, Nat.succ_pos _⟩]; rfl
  | unsupported sid rest hmax hs =>
    obtain ⟨hDsc, hRmba, hSa⟩ := (Machine.supportedSid_false sid).1 hs
    have hhi := hi_of_request sid hmax
    rw [firstRow_req, if_neg (by omega), if_neg (by omega), if_neg fun h => hDsc h.1, if_neg fun h => hRmba h.1,
      if_neg fun h => hSa h.1, if_neg fun h => hDsc h.1.1, if_neg fun h => hDsc h.1.1, if_neg fun h => hDsc h.1,
      if_neg fun h => hSa h.1.1, if_neg fun h => hSa h.1.1, if_neg fun h => hSa h.1, if_neg fun h => hRmba h.1]

/-- Settles O5: each decoder makes the tests of its format's rows, in the rows' order. -/
theorem decodeIsTheFirstMatchingRow : Obligations.DecodeIsTheFirstMatchingRow :=
  ⟨fun f => (leadFrame_decodeLead f).firstRow_eq, firstRow_rxCf, firstRow_txWaitFc,
    fun m => (request_decodeReq m).firstRow_eq⟩

end Sys2Proof
end

section
/-! PROOF. Segmentation and reassembly (40_framer_write.md R103, R104, 41_framer_read.md R125, R129, R130): the burst as a
list of numbered seven-byte groups, and the run that takes such a list. -/

namespace Sys2Proof.Machine

open Safety (sentBy consecutiveCount)

/-! ### The burst by position (R103, R104) -/

theorem add_one_add_ofNat (sn : Nibble) (j : Nat) : sn + 1 + BitVec.ofNat 4 j = sn + BitVec.ofNat 4 (j + 1) := by
  rw [BitVec.ofNat_add, BitVec.add_assoc, BitVec.add_comm 1]
  rfl

/-- The k-th frame of a burst (from 0) carries the k-th seven bytes, zeros after the last; the fuel is enough for any
sequence it is as long as. -/
theorem cfLoop_eq_map (k : Nat) (sn : Nibble) (l : List Byte) (h : l.length ≤ k) :
    cfLoop k sn l = (List.range ((l.length + 6) / 7)).map fun j =>
      consecutiveFrame (sn + BitVec.ofNat 4 j) (padSeven ((l.drop (7 * j)).take 7)) := by
  induction k generalizing sn l with
  | zero => rw [List.length_eq_zero_iff.1 (Nat.le_zero.1 h)]; rfl
  | succ k ih =>
    cases l with
    | nil => rfl
    | cons b bs =>
      have hcount : ((b :: bs).length + 6) / 7 = (((b :: bs).drop 7).length + 6) / 7 + 1 := by
        rw [List.length_drop, List.length_cons]; omega
      have hfuel : ((b :: bs).drop 7).length ≤ k := by
        rw [List.length_drop]
        rw [List.length_cons] at h ⊢
        omega
      rw [cfLoop, ih _ _ hfuel, hcount, List.range_succ_eq_map, List.map_cons, List.map_map]
      congr 1
      · simp
      · refine List.map_congr_left fun j _ => ?_
        simp only [Function.comp_apply, add_one_add_ofNat, List.drop_drop]
        rw [show Config.cfData + 7 * j = 7 * (j + 1) by rw [Nat.mul_succ, Nat.add_comm]]

/-- The sequence byte of the k-th frame (from 0) counts modulo 16 from 0x21 (R103). -/
theorem sequenceByte (j : Nat) :
    nibbles 2 (Config.seqFirst + BitVec.ofNat 4 j) = 0x20#8 + BitVec.ofNat 8 ((j + 1) % 16) := by
  have number : (Config.seqFirst + BitVec.ofNat 4 j).setWidth 8 = BitVec.ofNat 8 ((j + 1) % 16) := by
    apply BitVec.eq_of_toNat_eq
    simp only [BitVec.toNat_setWidth, BitVec.toNat_add, BitVec.toNat_ofNat, show Config.seqFirst.toNat = 1 from rfl]
    omega
  rw [nibbles_two, number]

/-- The burst of a payload, frame by frame (R103, R104). -/
theorem cfFrames_eq_map (p : List Byte) :
    cfFrames p = (List.range (consecutiveCount p.length)).map fun j =>
      pad8 ((0x20#8 + BitVec.ofNat 8 ((j + 1) % 16)) :: (p.drop (6 + 7 * j)).take 7) := by
  have hlen : (p.drop Config.ffData).length = p.length - 6 := List.length_drop
  rw [cfFrames, cfLoop_eq_map _ _ _ (hlen.trans_le (Nat.sub_le _ _)), hlen]
  refine List.map_congr_left fun j _ => ?_
  rw [consecutiveFrame, sequenceByte, List.drop_drop]
  rfl

/-- `FC` sends the burst and waits for a leading frame again (R103). -/
theorem exec_fc (d : Seven) (s : State) : exec (.fc d) s = .next (toIdle (cfBurst s)) := rfl

/-- Settles O13: the burst of the whole buffer, frame by frame. -/
theorem flowControlReleasesTheWholeBurst : Obligations.FlowControlReleasesTheWholeBurst := by
  intro rest s hlen
  have hall : s.txBuf.take s.txLen.toNat = s.txBuf := List.take_of_length_le hlen.le
  rw [exec_fc, cfBurst, hall, cfFrames_eq_map, hlen]
  rfl

/-- Settles O14: the frame decodes as `FC` by its first byte alone. -/
theorem flowControlIsAcceptedByItsFirstByte : Obligations.FlowControlIsAcceptedByItsFirstByte := by
  intro s f q hp hin hb
  rw [step_txWaitFc s f q hp hin, decodeFc_cts f hb, exec_fc]
  rfl

/-! ### A list of seven-byte groups as numbered frames -/

/-- The consecutive frames that carry the groups, numbered from `sn` (R74). -/
def numberedFrames : Nibble → List Seven → List Frame
  | _, [] => []
  | sn, d :: ds => consecutiveFrame sn d :: numberedFrames (sn + 1) ds

theorem length_numberedFrames (sn : Nibble) (ds : List Seven) : (numberedFrames sn ds).length = ds.length := by
  induction ds generalizing sn with
  | nil => rfl
  | cons d ds ih => rw [numberedFrames, List.length_cons, ih, List.length_cons]

/-- The same frames by position, as receive events. -/
theorem map_numberedFrames (sn : Nibble) (ds : List Seven) :
    (numberedFrames sn ds).map Event.frame =
      ds.mapIdx fun j d => Event.frame (consecutiveFrame (sn + BitVec.ofNat 4 j) d) := by
  induction ds generalizing sn with
  | nil => rfl
  | cons d ds ih =>
    simp only [numberedFrames, List.map_cons, ih, List.mapIdx_cons, add_one_add_ofNat]
    simp

/-- The burst carries its bytes in groups of seven, with zeros behind the last (R104). -/
theorem cfLoop_eq_numberedFrames (k : Nat) (sn : Nibble) (l : List Byte) (h : l.length ≤ k) :
    ∃ ds : List Seven, cfLoop k sn l = numberedFrames sn ds ∧ ds.length = (l.length + 6) / 7 ∧
      (ds.map Seven.toList).flatten = l ++ List.replicate (7 * ((l.length + 6) / 7) - l.length) 0 := by
  induction k generalizing sn l with
  | zero => exact ⟨[], by rw [List.length_eq_zero_iff.1 (Nat.le_zero.1 h)]; exact ⟨rfl, rfl, rfl⟩⟩
  | succ k ih =>
    cases l with
    | nil => exact ⟨[], rfl, rfl, rfl⟩
    | cons b bs =>
      have hdrop : ((b :: bs).drop 7).length = bs.length + 1 - 7 := List.length_drop
      have hpos : (b :: bs).length = bs.length + 1 := rfl
      obtain ⟨ds, hds, hlen, hflat⟩ := ih (sn + 1) ((b :: bs).drop 7) (by omega)
      refine ⟨padSeven ((b :: bs).take 7) :: ds, by rw [cfLoop, hds]; rfl, by rw [List.length_cons]; omega, ?_⟩
      have htake : ((b :: bs).take 7).length = min 7 (bs.length + 1) := List.length_take
      rw [List.map_cons, List.flatten_cons, hflat, toList_padSeven _ (by omega), htake, hdrop, hpos]
      rcases Nat.lt_or_ge 7 (bs.length + 1) with hlong | hshort
      · rw [show 7 - min 7 (bs.length + 1) = 0 by omega, List.replicate_zero, List.append_nil, ← List.append_assoc,
          List.take_append_drop]
        congr 2
        omega
      · rw [List.take_of_length_le hshort, List.drop_eq_nil_of_le hshort, List.nil_append, List.append_assoc,
          ← List.replicate_add]
        congr 2
        omega

/-! ### Runs that deliver a message -/

/-- The run of `k` steps from `s` is the dispatch of `m`, at a state with session, lock and image of `s`, the events left
in the stream being `q` and no output yet (R129). -/
def Delivers (k : Nat) (s : State) (m : List Byte) (q : List Event) : Prop :=
  ∃ u : State, u.session = s.session ∧ u.lock = s.lock ∧ u.mem = s.mem ∧ u.inbox = q ∧ u.out = [] ∧ u.tfault = none ∧
    Host.Core.run Sys2Proof.core k s = dispatchMessage m u

/-- A run of one step is the step. -/
theorem run_one (s : State) : Host.Core.run Sys2Proof.core 1 s = step s := by
  cases h : step s with
  | next t => exact run_succ_next h 0
  | fault r =>
    have h' : Sys2Proof.core.step s = .fault r := h
    simp only [Host.Core.run, h']
    rfl
  | refused r =>
    have h' : Sys2Proof.core.step s = .refused r := h
    simp only [Host.Core.run, h']
    rfl

/-- A step that keeps session, lock and image may precede. -/
theorem Delivers.of_step {s t : State} {k : Nat} {m : List Byte} {q : List Event} (hd : Delivers k t m q)
    (h : step s = .next t) (hs : t.session = s.session) (hl : t.lock = s.lock) (hm : t.mem = s.mem) :
    Delivers (k + 1) s m q := by
  obtain ⟨u, us, ul, um, uq, uo, ut, hrun⟩ := hd
  exact ⟨u, us.trans hs, ul.trans hl, um.trans hm, uq, uo, ut, (run_succ_next h k).trans hrun⟩

/-- The frame expected next, below the declared size (R125). -/
theorem step_cf_extends (d : Seven) (s : State) (q : List Event) (hp : s.phase = .rxCf)
    (hin : s.inbox = .frame (consecutiveFrame s.rxSeq d) :: q) (hroom : s.rxLen.toNat + 7 ≤ 4101)
    (hless : s.rxLen.toNat + 7 < s.rxSize.toNat) : step s = .next (extendReassembly d (consume q s)) :=
  (step_expectedCf s _ q hp hin rfl).trans (exec_cf_extends _ d (consume q s) hroom hless)

/-- The frame expected next, when it completes the message (R125). -/
theorem step_cf_delivers (d : Seven) (s : State) (q : List Event) (hp : s.phase = .rxCf)
    (hin : s.inbox = .frame (consecutiveFrame s.rxSeq d) :: q) (hbuf : s.rxBuf.length = s.rxLen.toNat)
    (hroom : s.rxLen.toNat + 7 ≤ 4101) (hdone : s.rxSize.toNat ≤ s.rxLen.toNat + 7) :
    step s = dispatchMessage (s.rxBuf ++ d.toList) (appendData d (consume q s)) := by
  have happ : rxAppended d (consume q s) = s.rxBuf ++ d.toList := rxAppended_of_length d (consume q s) hbuf
  rw [← happ]
  exact (step_expectedCf s _ q hp hin rfl).trans (exec_cf_delivers _ d (consume q s) hroom hdone)

/-- In RX_CF the groups that the declared size still asks for, numbered as expected, complete the message; nothing is
sent before the last (R125, R129). -/
theorem reassembly_delivers (d : Seven) (ds : List Seven) (s : State) (q : List Event) (hp : s.phase = .rxCf)
    (hbuf : s.rxBuf.length = s.rxLen.toNat) (hless : s.rxLen.toNat + 7 * ds.length < s.rxSize.toNat)
    (hdone : s.rxSize.toNat ≤ s.rxLen.toNat + 7 * ds.length + 7)
    (hin : s.inbox = (numberedFrames s.rxSeq (d :: ds)).map .frame ++ q) :
    sentBy ds.length s = [] ∧ Delivers (ds.length + 1) s (s.rxBuf ++ ((d :: ds).map Seven.toList).flatten) q := by
  induction ds generalizing d s with
  | nil =>
    rw [List.length_nil] at hless hdone
    have hsize := s.rxSize.isLt
    have hstep := step_cf_delivers d s q hp hin hbuf (by omega) hdone
    have hflat : ([d].map Seven.toList).flatten = d.toList := List.append_nil _
    exact ⟨rfl, appendData d (consume q s), rfl, rfl, rfl, rfl, rfl, rfl, by rw [hflat]; exact (run_one s).trans hstep⟩
  | cons e es ih =>
    rw [List.length_cons] at hless hdone
    have hsize := s.rxSize.isLt
    have hroom : s.rxLen.toNat + 7 ≤ 4101 := by omega
    obtain ⟨q', hq'⟩ : ∃ q', q' = (numberedFrames (s.rxSeq + 1) (e :: es)).map Event.frame ++ q := ⟨_, rfl⟩
    have hstep := step_cf_extends d s q' hp (by rw [hin, hq']; rfl) hroom (by omega)
    obtain ⟨hheld, hlen, hbuf'⟩ := extendReassembly_held d (consume q' s) hbuf hroom
    rw [consume_rxLen] at hlen hbuf'
    obtain ⟨hsent, hd⟩ := ih e (extendReassembly d (consume q' s)) hp (hbuf'.trans hlen.symm)
      (by rw [hlen, extendReassembly_rxSize, consume_rxSize]; omega)
      (by rw [hlen, extendReassembly_rxSize, consume_rxSize]; omega) hq'
    refine ⟨(sentBy_succ_next hstep _).trans hsent, ?_⟩
    rw [hheld, consume_rxBuf, List.append_assoc] at hd
    exact hd.of_step hstep rfl rfl rfl

/-- From RX_IDLE, a first frame and the consecutive frames of its declared size deliver their data bytes; flow control
alone is sent before the last (R123, R124, R129, R130). -/
theorem firstFrame_delivers (len : BitVec 12) (d : Six) (ds : List Seven) (s : State) (q : List Event)
    (hp : s.phase = .rxIdle) (hlen : 6 < len.toNat) (hcount : ds.length = consecutiveCount len.toNat)
    (hin : s.inbox = (frameOfSix (firstFrameByte0 len) (firstFrameByte1 len) d ::
      numberedFrames Config.seqFirst ds).map .frame ++ q) :
    sentBy ds.length s = [flowControlFrame] ∧
      Delivers (ds.length + 1) s (d.toList ++ (ds.map Seven.toList).flatten) q := by
  rw [consecutiveCount] at hcount
  cases ds with
  | nil => rw [List.length_nil] at hcount; omega
  | cons e es =>
    rw [List.length_cons] at hcount
    obtain ⟨q', hq'⟩ : ∃ q', q' = (numberedFrames Config.seqFirst (e :: es)).map Event.frame ++ q := ⟨_, rfl⟩
    have hstep := step_lead s (frameOfSix (firstFrameByte0 len) (firstFrameByte1 len) d) q' hp (by rw [hin, hq']; rfl)
    rw [(LeadFrame.ff len rfl rfl).decodes, exec_ff_starts _ _ _ hlen] at hstep
    obtain ⟨hsent, hd⟩ := reassembly_delivers e es
      (startReassembly len d (emit flowControlFrame (consume q' s))) q rfl rfl
      (show 6 + 7 * es.length < len.toNat by omega) (show len.toNat ≤ 6 + 7 * es.length + 7 by omega) hq'
    refine ⟨(sentBy_succ_next hstep _).trans ?_, hd.of_step hstep rfl rfl rfl⟩
    exact congrArg ([flowControlFrame] ++ ·) hsent

/-- Settles O44: the consecutive frames are the groups numbered from 1. -/
theorem reassemblyDeliversAllDataBytes : Obligations.ReassemblyDeliversAllDataBytes := by
  intro s len d ds q hp hlen hcount hin
  have hframes : (numberedFrames Config.seqFirst ds).map Event.frame =
      ds.mapIdx fun j e => Event.frame ⟨0x20#8 + BitVec.ofNat 8 ((j + 1) % 16), e⟩ := by
    simp only [map_numberedFrames, consecutiveFrame, sequenceByte]
  rw [← hframes] at hin
  exact firstFrame_delivers len d ds s q hp hlen hcount hin

/-! ### What `write` segments, read again (R109) -/

/-- A single frame delivers the payload it was made of (R101, R122). -/
theorem singlePayload_singleFrame (p : List Byte) (h : p.length ≤ 7) :
    singlePayload (lo (singleFrame p).b0) (singleFrame p).rest = p := by
  rw [singlePayload, lo_singleFrame p h, rest_singleFrame p h, Nat.min_eq_left h, List.take_left]

/-- A step on the single frame of a payload dispatches the payload (R122). -/
theorem step_singleFrame (p : List Byte) (s : State) (q : List Event) (h : p.length ≤ 7) (hp : s.phase = .rxIdle)
    (hin : s.inbox = .frame (singleFrame p) :: q) : step s = dispatchMessage p (consume q s) := by
  rw [step_lead s _ q hp hin, decodeLead_single _ (hi_singleFrame p), exec_sf, singlePayload_singleFrame p h]

/-- The frames of a longer payload are its first frame and numbered groups, which hold its bytes and the zeros of the
last (R102, R104). -/
theorem segment_long (p : List Byte) (h : 7 < p.length) :
    ∃ (d : Six) (ds : List Seven), ds.length = consecutiveCount p.length ∧
      Script.segment p = frameOfSix (firstFrameByte0 (BitVec.ofNat 12 p.length))
        (firstFrameByte1 (BitVec.ofNat 12 p.length)) d :: numberedFrames Config.seqFirst ds ∧
      d.toList ++ (ds.map Seven.toList).flatten =
        p ++ List.replicate (6 + 7 * consecutiveCount p.length - p.length) 0 := by
  obtain ⟨d, hd, hfirst⟩ := firstFrame_eq_frameOfSix (p := p) (by omega)
  have hrest : (p.drop 6).length = p.length - 6 := List.length_drop
  obtain ⟨ds, hframes, hcount, hflat⟩ := cfLoop_eq_numberedFrames p.length Config.seqFirst (p.drop 6) (by omega)
  rw [hrest] at hcount hflat
  refine ⟨d, ds, hcount, ?_, ?_⟩
  · rw [Script.segment, if_neg (show ¬ p.length ≤ 7 by omega), hfirst, ← hframes]
    rfl
  · rw [hd, hflat, ← List.append_assoc, List.take_append_drop, consecutiveCount]
    congr 2
    omega

/-- Settles O45: a short payload is one single frame; a longer one a first frame and the groups of its declared size. -/
theorem writeThenReadRoundTrip : Obligations.WriteThenReadRoundTrip := by
  intro s p q hp hmax hin
  change Delivers (Script.msg p).length s _ q
  rw [Script.msg] at hin ⊢
  rcases Nat.lt_or_ge 7 p.length with hlong | hshort
  · obtain ⟨d, ds, hcount, hseg, hbytes⟩ := segment_long p hlong
    have hlen : (BitVec.ofNat 12 p.length).toNat = p.length := by rw [BitVec.toNat_ofNat]; omega
    rw [hseg] at hin ⊢
    rw [if_neg (by omega), ← hbytes, List.length_map, List.length_cons, length_numberedFrames]
    exact (firstFrame_delivers _ d ds s q hp (by omega) (by rw [hlen, hcount]) hin).2
  · rw [Script.segment, if_pos (show p.length ≤ 7 from hshort)] at hin ⊢
    rw [if_pos hshort, List.replicate_zero, List.append_nil]
    exact ⟨consume q s, rfl, rfl, rfl, rfl, rfl, rfl, (run_one s).trans (step_singleFrame p s q hshort hp hin)⟩

/-! ### The step and its decoded frame -/

/-- Settles O46: the phase's context and the phase's decoder are the same. -/
theorem stepRunsTheDecodedFrame : Obligations.StepRunsTheDecodedFrame := by
  intro s f q c i hin hc hd
  change step s = exec i (consume q s)
  cases hp : s.phase with
  | rxIdle =>
    obtain rfl : .rxIdle = c := by simpa [receiveContext, hp] using hc
    rw [step_lead s f q hp hin, Except.ok.inj hd]
  | rxCf =>
    obtain rfl : .rxCf s.rxSeq = c := by simpa [receiveContext, hp] using hc
    rw [step_rxCf s f q hp hin, Except.ok.inj hd]
  | txWaitFc =>
    obtain rfl : .txWaitFc = c := by simpa [receiveContext, hp] using hc
    rw [step_txWaitFc s f q hp hin, Except.ok.inj hd]
  | closed => simp [receiveContext, hp] at hc

theorem length_messageOfWord (n w : Nat) : (messageOfWord n w).length = n := by
  induction n with
  | zero => rfl
  | succ n ih => rw [messageOfWord, List.length_cons, ih]

/-- Settles O47: a 64-bit word is the next leading frame; a shorter one is delivered by a single frame, and the request
it decodes to is what dispatching it runs. -/
theorem fetchedWordRunsItsInstruction : Obligations.FetchedWordRunsItsInstruction := by
  intro s nbits w i hn hd
  by_cases h64 : nbits = 64
  · rw [decodeTableWord, if_pos h64] at hd
    obtain rfl := Option.some.inj hd
    rw [step_lead _ (frameOfWord w) s.inbox rfl (by rw [withFetchWord_inbox, fetchFrame, if_pos h64])]
    rfl
  · rw [decodeTableWord, if_neg h64, if_pos (by omega)] at hd
    obtain rfl := Option.some.inj hd
    have hlen : (messageOfWord (nbits / 8) w).length ≤ 7 := by rw [length_messageOfWord]; omega
    rw [step_singleFrame _ _ s.inbox hlen rfl (by rw [withFetchWord_inbox, fetchFrame, if_neg h64]), exec_decodeReq]
    rfl

end Sys2Proof.Machine
end

section
/-! PROOF. What the instructions leave unchanged (40_framer_write.md to 45_service_read_memory.md, 20_memory.md R51). -/

namespace Sys2Proof.Machine

open Safety (isMessage)

/-! ### What a request or response can do -/

/-- What a request writes before it responds: session and lock by `DSC`, the lock by requestSeed and sendKey, nothing by
any other (R180, R191, R192). -/
inductive ServiceWrite (i : Instr) (s : State) : State → Prop where
  | unchanged : ServiceWrite i s s
  | select (v : Session) (h : (∃ r, i = .dsc01 r) ∨ ∃ r, i = .dsc02 r) : ServiceWrite i s (selectSession v s)
  | lock (l : Lock) (h : (∃ r, i = .saSeed r) ∨ ∃ k, i = .saKey k) : ServiceWrite i s { s with lock := l }

/-- How a request or response ends: silently, or with one response written. -/
def Responds (i : Instr) (s u : State) : Prop := exec i s = .next (toIdle u) ∨ ∃ p, exec i s = write p u

/-- A negative response is written from the state it is raised in (R158). -/
theorem responds_of_execNeg {i : Instr} {s : State} {sid : Byte} {n : Nrc} (h : exec i s = execNeg sid n s) :
    ∃ u, ServiceWrite i s u ∧ Responds i s u := ⟨s, .unchanged, .inr ⟨[Config.negSid, sid, nrcCode n], h⟩⟩

theorem saSeed_responds (r : List Byte) (s : State) : ∃ u, ServiceWrite (.saSeed r) s u ∧ Responds (.saSeed r) s u := by
  by_cases hs : inExtendedSession s = true
  · exact ⟨_, .lock .seedIssued (.inl ⟨r, rfl⟩), .inr ⟨0x67 :: Config.seed, if_pos hs⟩⟩
  · exact responds_of_execNeg (if_neg hs)

theorem saKey_responds (k : List Byte) (s : State) : ∃ u, ServiceWrite (.saKey k) s u ∧ Responds (.saKey k) s u := by
  have hexec : exec (.saKey k) s = execSaKey k s := rfl
  unfold execSaKey at hexec
  split_ifs at hexec
  iterate 4 exact responds_of_execNeg hexec
  exact ⟨_, .lock .unlocked (.inr ⟨k, rfl⟩), .inr ⟨[0x67, 0x02], hexec⟩⟩

theorem rmba_responds (a z : Nibble) (spans : List Byte) (s : State) :
    ∃ u, ServiceWrite (.rmba a z spans) s u ∧ Responds (.rmba a z spans) s u := by
  have hexec : exec (.rmba a z spans) s = execRmba a z spans s := rfl
  unfold execRmba at hexec
  split_ifs at hexec
  iterate 4 exact responds_of_execNeg hexec
  exact ⟨s, .unchanged, .inr ⟨_, hexec.trans (execPosRmba_eq _ s)⟩⟩

/-- Everything a request or response can do: its `ServiceWrite`, then silence or one response. -/
theorem exec_message_responds {i : Instr} (hi : isMessage i = true) (s : State) :
    ∃ u, ServiceWrite i s u ∧ Responds i s u := by
  cases i with
  | empty | ignored80FF | ignored407F => exact ⟨s, .unchanged, .inl rfl⟩
  | shortDsc => exact responds_of_execNeg (exec_shortDsc s)
  | shortRmba => exact responds_of_execNeg (exec_shortRmba s)
  | shortSa => exact responds_of_execNeg (exec_shortSa s)
  | unsupported sid rest => exact responds_of_execNeg (exec_unsupported sid rest s)
  | dsc01 r => exact ⟨_, .select .default (.inl ⟨r, rfl⟩), .inr ⟨[0x50, 0x01], rfl⟩⟩
  | dsc02 r => exact ⟨_, .select .extended (.inr ⟨r, rfl⟩), .inr ⟨[0x50, 0x02], rfl⟩⟩
  | dscOther sf rest => exact responds_of_execNeg (exec_dscOther sf rest s)
  | saSeed r => exact saSeed_responds r s
  | saKey k => exact saKey_responds k s
  | saOther sf rest => exact responds_of_execNeg (sid := Config.sidSa) (n := .subFunctionNotSupported) rfl
  | rmba a z spans => exact rmba_responds a z spans s
  | posDsc sf => exact ⟨s, .unchanged, .inr ⟨[0x50, sf], rfl⟩⟩
  | posRmba data => exact ⟨s, .unchanged, .inr ⟨0x63 :: data, rfl⟩⟩
  | posSaSeed => exact ⟨s, .unchanged, .inr ⟨0x67 :: Config.seed, rfl⟩⟩
  | posSaKey => exact ⟨s, .unchanged, .inr ⟨[0x67, 0x02], rfl⟩⟩
  | neg sid n => exact responds_of_execNeg (exec_neg sid n s)
  | _ => cases hi

/-! ### The frame of requests and responses -/

/-- What the engine leaves alone: the receive stream, tfault, the reassembly registers, the image, the transmit registers
unless a response is held, and the frames already sent, to which it adds at most one. -/
structure EngineFrame (s t : State) : Prop where
  inbox : t.inbox = s.inbox
  tfault : t.tfault = s.tfault
  rxSize : t.rxSize = s.rxSize
  rxLen : t.rxLen = s.rxLen
  rxSeq : t.rxSeq = s.rxSeq
  rxBuf : t.rxBuf = s.rxBuf
  mem : t.mem = s.mem
  tx : t.phase ≠ .txWaitFc → t.txLen = s.txLen ∧ t.txBuf = s.txBuf
  sent : ∃ sent, t.out = s.out ++ sent ∧ sent.length ≤ 1

theorem engineFrame_toIdle (s : State) : EngineFrame s (toIdle s) :=
  ⟨rfl, rfl, rfl, rfl, rfl, rfl, rfl, fun _ => ⟨rfl, rfl⟩, [], (List.append_nil _).symm, Nat.zero_le 1⟩

theorem engineFrame_write {p : List Byte} {s t : State} (h : write p s = .next t) : EngineFrame s t := by
  rcases write_cases h with ⟨_, rfl⟩ | ⟨_, _, rfl⟩
  · exact ⟨rfl, rfl, rfl, rfl, rfl, rfl, rfl, fun _ => ⟨rfl, rfl⟩, _, rfl, Nat.le_refl 1⟩
  · exact ⟨rfl, rfl, rfl, rfl, rfl, rfl, rfl, fun hp => absurd rfl hp, _, rfl, Nat.le_refl 1⟩

/-- The frame speaks neither of session nor of lock, the only fields a service writes. -/
theorem ServiceWrite.engineFrame {i : Instr} {s u t : State} (hu : ServiceWrite i s u) (h : EngineFrame u t) :
    EngineFrame s t := by
  cases hu <;> exact ⟨h.inbox, h.tfault, h.rxSize, h.rxLen, h.rxSeq, h.rxBuf, h.mem, h.tx, h.sent⟩

/-- A response writes neither session nor lock: the answer has those of the state it responds from. -/
theorem Responds.answer {i : Instr} {s u t : State} (hr : Responds i s u) (h : exec i s = .next t) :
    EngineFrame u t ∧ t.session = u.session ∧ t.lock = u.lock := by
  rcases hr with hr | ⟨p, hr⟩
  · obtain rfl := next_inj (hr.symm.trans h)
    exact ⟨engineFrame_toIdle u, rfl, rfl⟩
  · have hw : write p u = .next t := hr.symm.trans h
    obtain ⟨hs, hl⟩ := Prod.mk.inj (write_privilege hw)
    exact ⟨engineFrame_write hw, hs, hl⟩

theorem exec_message_frame {i : Instr} {s t : State} (hi : isMessage i = true) (h : exec i s = .next t) :
    EngineFrame s t := by
  obtain ⟨u, hu, hr⟩ := exec_message_responds hi s
  exact hu.engineFrame (hr.answer h).1

theorem ServiceWrite.session {i : Instr} {s u : State} (hu : ServiceWrite i s u) (h1 : ∀ r, i ≠ .dsc01 r)
    (h2 : ∀ r, i ≠ .dsc02 r) : u.session = s.session := by
  cases hu with
  | unchanged | lock => rfl
  | select v h =>
    obtain ⟨r, hr⟩ | ⟨r, hr⟩ := h
    · exact absurd hr (h1 r)
    · exact absurd hr (h2 r)

theorem ServiceWrite.lock_eq {i : Instr} {s u : State} (hu : ServiceWrite i s u) (h1 : ∀ r, i ≠ .dsc01 r)
    (h2 : ∀ r, i ≠ .dsc02 r) (h3 : ∀ r, i ≠ .saSeed r) (h4 : ∀ k, i ≠ .saKey k) : u.lock = s.lock := by
  cases hu with
  | unchanged => rfl
  | select v h =>
    obtain ⟨r, hr⟩ | ⟨r, hr⟩ := h
    · exact absurd hr (h1 r)
    · exact absurd hr (h2 r)
  | lock l h =>
    obtain ⟨r, hr⟩ | ⟨k, hk⟩ := h
    · exact absurd hr (h3 r)
    · exact absurd hk (h4 k)

/-- Settles O48: a response writes no more than its frame, and what a service writes before it is named by the
instruction. -/
theorem messageInstructionsFrame : Obligations.MessageInstructionsFrame := by
  intro i s t hi h
  obtain ⟨u, hu, hr⟩ := exec_message_responds hi s
  obtain ⟨hframe, hsession, hlock⟩ := hr.answer h
  have hf := hu.engineFrame hframe
  exact ⟨hf.inbox, hf.tfault, hf.rxSize, hf.rxLen, hf.rxSeq, hf.rxBuf, fun a => by rw [hf.mem], by rw [hf.mem],
    fun h1 h2 => hsession.trans (hu.session h1 h2), fun h1 h2 h3 h4 => hlock.trans (hu.lock_eq h1 h2 h3 h4),
    hf.tx, hf.sent⟩

/-! ### The frames that deliver a message -/

theorem isMessage_of_request {m : List Byte} {i : Instr} (h : Request m i) : isMessage i = true := by cases h <;> rfl

theorem dispatchMessage_frame {m : List Byte} {s t : State} (h : dispatchMessage m s = .next t) : EngineFrame s t := by
  rw [← exec_decodeReq] at h
  exact exec_message_frame (isMessage_of_request (request_decodeReq m)) h

/-- A first frame that answers has delivered its six bytes or started a reassembly (R123). -/
theorem exec_ff_cases {len : BitVec 12} {d : Six} {s t : State} (h : exec (.ff len d) s = .next t) :
    dispatchMessage d.toList (emit flowControlFrame s) = .next t ∨
    t = startReassembly len d (emit flowControlFrame s) := by
  rcases Nat.lt_or_ge 6 len.toNat with hlong | hshort
  · exact .inr (next_inj ((exec_ff_starts len d s hlong).symm.trans h)).symm
  · exact .inl ((exec_ff_delivers len d s hshort).symm.trans h)

/-- A consecutive frame without room stops the model (log 10). -/
theorem exec_cf_overflows (sn : Nibble) (d : Seven) (s : State) (h : 4101 < s.rxLen.toNat + 7) :
    exec (.cf sn d) s = .fault .rxBufferOverflow := if_pos h

/-- Settles O43: the test for room comes first. -/
theorem reassemblyOverflowFaults : Obligations.ReassemblyOverflowFaults := exec_cf_overflows

/-- A consecutive frame that answers has delivered the message or extended it (R125). -/
theorem exec_cf_cases {sn : Nibble} {d : Seven} {s t : State} (h : exec (.cf sn d) s = .next t) :
    dispatchMessage (rxAppended d s) (appendData d s) = .next t ∨ t = extendReassembly d s := by
  rcases Nat.lt_or_ge 4101 (s.rxLen.toNat + 7) with hfull | hroom
  · rw [exec_cf_overflows sn d s hfull] at h
    cases h
  · rcases Nat.lt_or_ge (s.rxLen.toNat + 7) s.rxSize.toNat with hless | hdone
    · exact .inr (next_inj ((exec_cf_extends sn d s hroom hless).symm.trans h)).symm
    · exact .inl ((exec_cf_delivers sn d s hroom hdone).symm.trans h)

/-- What all three frames leave alone. -/
structure DataFrame (s t : State) : Prop where
  inbox : t.inbox = s.inbox
  tfault : t.tfault = s.tfault
  mem : t.mem = s.mem
  tx : t.phase ≠ .txWaitFc → t.txLen = s.txLen ∧ t.txBuf = s.txBuf

theorem EngineFrame.dataFrame {s t : State} (h : EngineFrame s t) : DataFrame s t := ⟨h.inbox, h.tfault, h.mem, h.tx⟩

theorem exec_sf_frame {l : Nibble} {d : Seven} {s t : State} (h : exec (.sf l d) s = .next t) : EngineFrame s t :=
  dispatchMessage_frame ((exec_sf l d s).symm.trans h)

theorem exec_ff_frame {len : BitVec 12} {d : Six} {s t : State} (h : exec (.ff len d) s = .next t) : DataFrame s t := by
  rcases exec_ff_cases h with hd | rfl
  · obtain ⟨hin, htf, hmem, htx⟩ := (dispatchMessage_frame hd).dataFrame
    exact ⟨hin, htf, hmem, htx⟩
  · exact ⟨rfl, rfl, rfl, fun _ => ⟨rfl, rfl⟩⟩

theorem exec_cf_frame {sn : Nibble} {d : Seven} {s t : State} (h : exec (.cf sn d) s = .next t) :
    DataFrame s t ∧ t.rxSize = s.rxSize := by
  rcases exec_cf_cases h with hd | rfl
  · have hf := dispatchMessage_frame hd
    exact ⟨⟨hf.inbox, hf.tfault, hf.mem, hf.tx⟩, hf.rxSize⟩
  · exact ⟨⟨rfl, rfl, rfl, fun _ => ⟨rfl, rfl⟩⟩, rfl⟩

/-- Settles O49: each of the three frames ends in a dispatch, or in the registers of the reassembly alone. -/
theorem receivedDataFramesFrame : Obligations.ReceivedDataFramesFrame := by
  intro s t
  refine ⟨fun l d h => ?_, fun sn d h => (exec_cf_frame h).2, fun i hi h => ?_⟩
  · have hf := exec_sf_frame h
    exact ⟨hf.rxSize, hf.rxLen, hf.rxSeq, hf.rxBuf⟩
  · have hf : DataFrame s t := by
      obtain ⟨l, d, rfl⟩ | ⟨len, d, rfl⟩ | ⟨sn, d, rfl⟩ := hi
      · exact (exec_sf_frame h).dataFrame
      · exact exec_ff_frame h
      · exact (exec_cf_frame h).1
    exact ⟨hf.inbox, hf.tfault, fun a => by rw [hf.mem], by rw [hf.mem], hf.tx⟩

/-! ### The other transport instructions -/

/-- What the transport instructions that deliver no message answer (R76, R101 to R105, R124, R126, R128). -/
inductive TransportNext (s : State) : Instr → State → Prop where
  | sfTx (p : List Byte) : TransportNext s (.sfTx p) (toIdle (emit (singleFrame p) s))
  | ffTx (p : List Byte) : TransportNext s (.ffTx p) (awaitFlowControl p (emit (firstFrame p) s))
  | cfTx (sn : Nibble) (d : Seven) : TransportNext s (.cfTx sn d) (emit (consecutiveFrame sn d) s)
  | fcTx : TransportNext s .fcTx (emit flowControlFrame s)
  | fc (d : Seven) : TransportNext s (.fc d) (toIdle (cfBurst s))
  | fcMismatch (f : Frame) : TransportNext s (.fcMismatch f) (raiseTfault .fcBad s)
  | cfMismatch (f : Frame) : TransportNext s (.cfMismatch f) (raiseTfault .cfSeq s)
  | cfLead (sn : Nibble) (d : Seven) : TransportNext s (.cfLead sn d) (raiseTfault .leadType s)
  | fcLead (low : Nibble) (d : Seven) : TransportNext s (.fcLead low d) (raiseTfault .leadType s)
  | rsv47Lead (low : BitVec 6) (d : Seven) : TransportNext s (.rsv47Lead low d) (raiseTfault .leadType s)
  | rsv8FLead (low : BitVec 7) (d : Seven) : TransportNext s (.rsv8FLead low d) (raiseTfault .leadType s)

theorem transportNext_sfTx {p : List Byte} {s t : State} (h : exec (.sfTx p) s = .next t) :
    TransportNext s (.sfTx p) t := by
  rw [exec_sfTx, sendSingle] at h
  split_ifs at h
  obtain rfl := next_inj h
  exact .sfTx p

theorem transportNext_ffTx {p : List Byte} {s t : State} (h : exec (.ffTx p) s = .next t) :
    TransportNext s (.ffTx p) t := by
  rw [exec_ffTx, sendFirst] at h
  split_ifs at h
  obtain rfl := next_inj h
  exact .ffTx p

/-- An instruction that is no message and delivers none answers as `TransportNext` says. -/
theorem transportNext_of_exec {i : Instr} {s t : State} (hi : isMessage i = false) (hsf : ∀ l d, i ≠ .sf l d)
    (hff : ∀ len d, i ≠ .ff len d) (hcf : ∀ sn d, i ≠ .cf sn d) (h : exec i s = .next t) : TransportNext s i t := by
  cases i with
  | sfTx p => exact transportNext_sfTx h
  | ffTx p => exact transportNext_ffTx h
  | cfTx sn d => obtain rfl := next_inj h; exact .cfTx sn d
  | fcTx => obtain rfl := next_inj h; exact .fcTx
  | fc d => obtain rfl := next_inj h; exact .fc d
  | fcMismatch f => obtain rfl := next_inj h; exact .fcMismatch f
  | cfMismatch f => obtain rfl := next_inj h; exact .cfMismatch f
  | cfLead sn d => obtain rfl := next_inj h; exact .cfLead sn d
  | fcLead low d => obtain rfl := next_inj h; exact .fcLead low d
  | rsv47Lead low d => obtain rfl := next_inj h; exact .rsv47Lead low d
  | rsv8FLead low d => obtain rfl := next_inj h; exact .rsv8FLead low d
  | sf l d => exact absurd rfl (hsf l d)
  | ff len d => exact absurd rfl (hff len d)
  | cf sn d => exact absurd rfl (hcf sn d)
  | _ => cases hi

theorem TransportNext.frame {s t : State} {i : Instr} (h : TransportNext s i t) :
    t.session = s.session ∧ t.lock = s.lock ∧ t.rxSize = s.rxSize ∧ t.rxLen = s.rxLen ∧ t.rxSeq = s.rxSeq ∧
    t.rxBuf = s.rxBuf ∧ t.inbox = s.inbox := by
  cases h <;> exact ⟨rfl, rfl, rfl, rfl, rfl, rfl, rfl⟩

theorem TransportNext.mem {s t : State} {i : Instr} (h : TransportNext s i t) : t.mem = s.mem := by cases h <;> rfl

theorem TransportNext.tx {s t : State} {i : Instr} (h : TransportNext s i t) (hi : ∀ p, i ≠ .ffTx p) :
    t.txLen = s.txLen ∧ t.txBuf = s.txBuf := by
  cases h with
  | ffTx p => exact absurd rfl (hi p)
  | _ => exact ⟨rfl, rfl⟩

/-- The instructions that send raise no transport fault. -/
theorem TransportNext.tfault {s t : State} {i : Instr} (h : TransportNext s i t)
    (hi : (∃ p, i = .sfTx p) ∨ (∃ p, i = .ffTx p) ∨ (∃ sn d, i = .cfTx sn d) ∨ i = .fcTx ∨ ∃ r, i = .fc r) :
    t.tfault = s.tfault := by
  cases h with
  | sfTx | ffTx | cfTx | fcTx | fc => rfl
  | _ => simp at hi

/-- Settles O50: by the answers of the eleven instructions. -/
theorem transportInstructionsFrame : Obligations.TransportInstructionsFrame := by
  intro i s t hi h
  have ht : TransportNext s i t := by
    obtain ⟨p, rfl⟩ | ⟨p, rfl⟩ | ⟨sn, d, rfl⟩ | rfl | ⟨r, rfl⟩ | ⟨f, rfl⟩ | ⟨f, rfl⟩ | ⟨sn, d, rfl⟩ | ⟨l, d, rfl⟩ |
      ⟨l, d, rfl⟩ | ⟨l, d, rfl⟩ := hi <;>
    exact transportNext_of_exec rfl (by simp) (by simp) (by simp) h
  obtain ⟨hs, hl, hsize, hlen, hseq, hbuf, hin⟩ := ht.frame
  exact ⟨hs, hl, hsize, hlen, hseq, hbuf, hin, fun a => by rw [ht.mem], by rw [ht.mem], ht.tx, ht.tfault⟩

/-! ### The firmware space (R51) -/

theorem exec_mem {i : Instr} {s t : State} (h : exec i s = .next t) : t.mem = s.mem := by
  cases hi : isMessage i with
  | true => exact (exec_message_frame hi h).mem
  | false =>
    cases i with
    | sf l d => exact (exec_sf_frame h).mem
    | ff len d => exact (exec_ff_frame h).mem
    | cf sn d => exact (exec_cf_frame h).1.mem
    | _ => exact (transportNext_of_exec hi (by simp) (by simp) (by simp) h).mem

theorem takeTimeout_mem (s : State) : (takeTimeout s).mem = s.mem := by
  rcases takeTimeout_cases s with e | ⟨k, e⟩ <;> rw [e]
  rfl

theorem step_mem {s t : State} (h : step s = .next t) : t.mem = s.mem := by
  rcases step_cases s with ⟨_, e⟩ | ⟨q, _, _, e⟩ | ⟨q, _, _, e⟩ | ⟨f, q, _, _, e⟩ | ⟨f, q, _, _, e⟩ | ⟨f, q, _, _, e⟩
  · obtain rfl := next_inj (e.symm.trans h)
    rfl
  · obtain rfl := next_inj (e.symm.trans h)
    exact takeTimeout_mem (consume q s)
  · obtain rfl := next_inj (e.symm.trans h)
    rfl
  · exact exec_mem (s := consume q s) (e.symm.trans h)
  · exact exec_mem (s := consume q s) (e.symm.trans h)
  · exact exec_mem (s := consume q s) (e.symm.trans h)

/-- Settles O56: the image is the same memory, so every byte reads the same. -/
theorem firmwareIsNeverWritten : Obligations.FirmwareIsNeverWritten :=
  ⟨fun _ _ _ h => ⟨exec_mem h, fun a => by rw [exec_mem h]⟩, fun _ _ h => ⟨step_mem h, fun a => by rw [step_mem h]⟩⟩

end Sys2Proof.Machine
end

section
/-! PROOF. Noninterference (60_exceptions.md R241): outside state (2, 2) nothing the block does depends on the image. -/

namespace Sys2Proof.Machine

open Safety (isMessage)

/-- The same state over another image. -/
def withImage (m : Memory) (s : State) : State := { s with mem := m }

/-- The same answer over another image. -/
def answerWithImage (m : Memory) : Outcome → Outcome
  | .next t => .next (withImage m t)
  | .fault r => .fault r
  | .refused r => .refused r

/-! ### Responses -/

theorem write_withImage (m : Memory) (p : List Byte) (s : State) :
    write p (withImage m s) = answerWithImage m (write p s) := by
  unfold write sendSingle sendFirst
  split_ifs <;> rfl

theorem execNeg_withImage (m : Memory) (sid : Byte) (n : Nrc) (s : State) :
    execNeg sid n (withImage m s) = answerWithImage m (execNeg sid n s) :=
  write_withImage m [Config.negSid, sid, nrcCode n] s

/-! ### The services -/

theorem execSaSeed_withImage (m : Memory) (r : List Byte) (s : State) :
    execSaSeed r (withImage m s) = answerWithImage m (execSaSeed r s) := by
  unfold execSaSeed
  rw [show inExtendedSession (withImage m s) = inExtendedSession s from rfl]
  split_ifs
  · exact write_withImage m (0x67 :: Config.seed) { s with lock := .seedIssued }
  · exact execNeg_withImage m _ _ s

theorem execSaKey_withImage (m : Memory) (k : List Byte) (s : State) :
    execSaKey k (withImage m s) = answerWithImage m (execSaKey k s) := by
  unfold execSaKey
  rw [show inExtendedSession (withImage m s) = inExtendedSession s from rfl,
    show seedIsIssued (withImage m s) = seedIsIssued s from rfl]
  split_ifs
  iterate 4 exact execNeg_withImage m _ _ s
  exact write_withImage m [0x67, 0x02] { s with lock := .unlocked }

/-- Read memory is refused before it looks at the image (R210). -/
theorem execRmba_withImage (m : Memory) (a z : Nibble) (spans : List Byte) (s : State)
    (h : ¬ (s.session = .extended ∧ s.lock = .unlocked)) :
    execRmba a z spans (withImage m s) = answerWithImage m (execRmba a z spans s) := by
  by_cases hs : s.session = .extended
  · have hl : s.lock ≠ .unlocked := fun hl => h ⟨hs, hl⟩
    rw [execRmba_notUnlocked a z spans s hs hl, execRmba_notUnlocked a z spans (withImage m s) hs hl]
    exact execNeg_withImage m _ _ s
  · rw [execRmba_wrongSession a z spans s hs, execRmba_wrongSession a z spans (withImage m s) hs]
    exact execNeg_withImage m _ _ s

theorem exec_message_withImage (m : Memory) {i : Instr} (hi : isMessage i = true) (s : State)
    (h : ¬ (s.session = .extended ∧ s.lock = .unlocked)) :
    exec i (withImage m s) = answerWithImage m (exec i s) := by
  cases i with
  | empty | ignored80FF | ignored407F => rfl
  | dsc01 => exact write_withImage m [0x50, 0x01] (selectSession .default s)
  | dsc02 => exact write_withImage m [0x50, 0x02] (selectSession .extended s)
  | saSeed r => exact execSaSeed_withImage m r s
  | saKey k => exact execSaKey_withImage m k s
  | rmba a z spans => exact execRmba_withImage m a z spans s h
  | shortDsc | shortRmba | shortSa | dscOther | saOther | unsupported | neg => exact execNeg_withImage m _ _ s
  | posDsc sf => exact write_withImage m [0x50, sf] s
  | posRmba data => exact write_withImage m (0x63 :: data) s
  | posSaSeed => exact write_withImage m (0x67 :: Config.seed) s
  | posSaKey => exact write_withImage m [0x67, 0x02] s
  | _ => cases hi

theorem dispatchMessage_withImage (m : Memory) (p : List Byte) (s : State)
    (h : ¬ (s.session = .extended ∧ s.lock = .unlocked)) :
    dispatchMessage p (withImage m s) = answerWithImage m (dispatchMessage p s) := by
  rw [← exec_decodeReq, ← exec_decodeReq]
  exact exec_message_withImage m (isMessage_of_request (request_decodeReq p)) s h

/-! ### Received frames -/

theorem exec_ff_withImage (m : Memory) (len : BitVec 12) (d : Six) (s : State)
    (h : ¬ (s.session = .extended ∧ s.lock = .unlocked)) :
    exec (.ff len d) (withImage m s) = answerWithImage m (exec (.ff len d) s) := by
  rcases Nat.lt_or_ge 6 len.toNat with hlong | hshort
  · rw [exec_ff_starts len d _ hlong, exec_ff_starts len d _ hlong]
    rfl
  · rw [exec_ff_delivers len d _ hshort, exec_ff_delivers len d _ hshort]
    exact dispatchMessage_withImage m _ (emit flowControlFrame s) h

theorem exec_cf_withImage (m : Memory) (sn : Nibble) (d : Seven) (s : State)
    (h : ¬ (s.session = .extended ∧ s.lock = .unlocked)) :
    exec (.cf sn d) (withImage m s) = answerWithImage m (exec (.cf sn d) s) := by
  rcases Nat.lt_or_ge 4101 (s.rxLen.toNat + 7) with hfull | hroom
  · rw [exec_cf_overflows sn d s hfull, exec_cf_overflows sn d (withImage m s) hfull]
    rfl
  rcases Nat.lt_or_ge (s.rxLen.toNat + 7) s.rxSize.toNat with hless | hdone
  · rw [exec_cf_extends sn d s hroom hless, exec_cf_extends sn d (withImage m s) hroom hless]
    rfl
  · rw [exec_cf_delivers sn d s hroom hdone, exec_cf_delivers sn d (withImage m s) hroom hdone]
    exact dispatchMessage_withImage m _ (appendData d s) h

theorem exec_lead_withImage (m : Memory) {f : Frame} {i : Instr} (hf : LeadFrame f i) (s : State)
    (h : ¬ (s.session = .extended ∧ s.lock = .unlocked)) :
    exec i (withImage m s) = answerWithImage m (exec i s) := by
  cases hf with
  | sf l _ => exact dispatchMessage_withImage m _ s h
  | ff len _ _ => exact exec_ff_withImage m len _ s h
  | cfLead | fcLead | rsv47Lead | rsv8FLead => rfl

theorem exec_decodeCf_withImage (m : Memory) (seq : Nibble) (f : Frame) (s : State)
    (h : ¬ (s.session = .extended ∧ s.lock = .unlocked)) :
    exec (decodeCf seq f) (withImage m s) = answerWithImage m (exec (decodeCf seq f) s) := by
  unfold decodeCf
  split_ifs
  · exact exec_cf_withImage m seq f.rest s h
  · rfl

theorem exec_decodeFc_withImage (m : Memory) (f : Frame) (s : State) :
    exec (decodeFc f) (withImage m s) = answerWithImage m (exec (decodeFc f) s) := by
  unfold decodeFc
  split_ifs <;> rfl

theorem takeTimeout_withImage (m : Memory) (s : State) : takeTimeout (withImage m s) = withImage m (takeTimeout s) := by
  unfold takeTimeout
  rw [show (withImage m s).phase = s.phase from rfl]
  split <;> rfl

/-! ### The step -/

/-- The step over another image is the same step: it takes the same event, decodes it alike and runs the same meaning. -/
theorem step_withImage (m : Memory) (s : State) (h : ¬ (s.session = .extended ∧ s.lock = .unlocked)) :
    step (withImage m s) = answerWithImage m (step s) := by
  rcases step_cases s with ⟨hidle, e⟩ | ⟨q, hp, hin, e⟩ | ⟨q, hp, hin, e⟩ | ⟨f, q, hp, hin, e⟩ | ⟨f, q, hp, hin, e⟩ |
    ⟨f, q, hp, hin, e⟩
  · rw [e, step_idle (withImage m s) hidle]
    rfl
  · rw [e, step_timeout (withImage m s) q hp hin]
    exact congrArg Host.Outcome.next (takeTimeout_withImage m (consume q s))
  · rw [e, step_closure (withImage m s) q hp hin]
    rfl
  · rw [e, step_lead (withImage m s) f q hp hin]
    exact exec_lead_withImage m (leadFrame_decodeLead f) (consume q s) h
  · rw [e, step_rxCf (withImage m s) f q hp hin]
    exact exec_decodeCf_withImage m s.rxSeq f (consume q s) h
  · rw [e, step_txWaitFc (withImage m s) f q hp hin]
    exact exec_decodeFc_withImage m f (consume q s)

/-- Settles O57: the step over the other image is the same step with the image exchanged. -/
theorem lockedBlockRevealsNoFirmware : Obligations.LockedBlockRevealsNoFirmware := by
  intro s t m h hstep
  change step (withImage m s) = .next (withImage m t)
  rw [step_withImage m s h, hstep]
  rfl

end Sys2Proof.Machine
end

section
/-! PROOF. What a step may change (60_exceptions.md R232, R236, R242, 10_state.md R39): closure, transport faults, the
frames sent, the privilege state, and the wait for flow control, each by the cases of a step. -/

namespace Sys2Proof.Machine

open Safety (sentBy deliveredMessage PrivilegeMove)

/-! ### Closure and the step without an event (R16, R236) -/

/-- Settles O21: an empty stream is one of the two reasons to take no event. -/
theorem withoutAnEventNothingChanges : Obligations.WithoutAnEventNothingChanges := fun s h => step_idle s (.inr h)

/-- Settles O20: the step on closure; then, by induction on the number of steps, a closed block only empties its outputs. -/
theorem closureIsAbsorbing : Obligations.ClosureIsAbsorbing := by
  refine ⟨fun s q hp hin => step_closure s q hp hin, fun s k hp => ?_⟩
  induction k generalizing s with
  | zero => exact ⟨⟨s, rfl, hp, rfl, rfl, rfl⟩, rfl⟩
  | succ k ih =>
    have hstep := step_idle s (.inl hp)
    obtain ⟨⟨t, hrun, ht⟩, hsent⟩ := ih (beginStep s) hp
    exact ⟨⟨t, (run_succ_next hstep k).trans hrun, ht⟩, (sentBy_succ_next hstep k).trans hsent⟩

/-! ### Transport faults and frames sent (R232, R262) -/

/-- The engine raises no transport fault (R131). -/
theorem EngineNext.tfault {s t : State} (h : EngineNext s t) : t.tfault = s.tfault := by
  cases h with
  | silent | first => rfl
  | single hu => rw [hu.frame]; rfl

/-- A step that reports a transport fault has raised it on the event it took. -/
theorem StepNext.raised_of_tfault {s t : State} (h : StepNext s t) (ht : t.tfault ≠ none) :
    ∃ e q k, s.inbox = e :: q ∧ t = raiseTfault k (consume q s) := by
  cases h with
  | idle | closure | firstStarts | grows | burst => exact absurd rfl ht
  | single _ _ _ _ _ _ _ he => exact absurd he.tfault ht
  | firstDelivers _ _ _ _ _ _ _ he => exact absurd he.tfault ht
  | completes _ _ _ _ _ _ _ _ _ he => exact absurd he.tfault ht
  | leadInvalid f q _ hin => exact ⟨_, q, _, hin, rfl⟩
  | mismatch f q _ hin => exact ⟨_, q, _, hin, rfl⟩
  | flowMismatch f q _ hin => exact ⟨_, q, _, hin, rfl⟩
  | timeout q _ hin =>
    rcases takeTimeout_cases (consume q s) with e | ⟨k, e⟩
    · rw [e] at ht
      exact absurd rfl ht
    · exact ⟨_, q, k, hin, e⟩

/-- Settles O22: raising a fault writes `tfault` and the phase, and taking the event the stream and the outputs. -/
theorem transportFaultsTouchNothingElse : Obligations.TransportFaultsTouchNothingElse := by
  intro s t h ht
  obtain ⟨e, q, k, hin, rfl⟩ := (stepNext_of_step h).raised_of_tfault ht
  exact ⟨e, q, hin, rfl⟩

/-- Settles O23: the cases of a step in which no frame is taken send none. -/
theorem nothingIsSentUnlessAFrameIsTaken : Obligations.NothingIsSentUnlessAFrameIsTaken := by
  intro s t h hout
  have taken {f : Frame} {q : List Event} {p : Phase} (hp : s.phase = p) (hne : p ≠ .closed)
      (hin : s.inbox = .frame f :: q) : s.phase ≠ .closed ∧ ∃ f q, s.inbox = .frame f :: q :=
    ⟨by rwa [hp], f, q, hin⟩
  cases stepNext_of_step h with
  | idle | closure => exact absurd rfl hout
  | timeout q => exact absurd (takeTimeout_out (consume q s)) hout
  | leadInvalid _ _ hp hin | firstStarts _ _ hp hin => exact taken hp (by decide) hin
  | mismatch _ _ hp hin | grows _ _ hp hin => exact taken hp (by decide) hin
  | burst _ _ hp hin | flowMismatch _ _ hp hin => exact taken hp (by decide) hin
  | single _ _ _ hp hin | firstDelivers _ _ _ hp hin | completes _ _ _ hp hin => exact taken hp (by decide) hin

/-! ### The privilege state (R240, R242) -/

theorem takeTimeout_privilege (s : State) : ((takeTimeout s).session, (takeTimeout s).lock) = (s.session, s.lock) := by
  rcases takeTimeout_cases s with e | ⟨k, e⟩ <;> rw [e]
  rfl

/-- Settles O54: a step that delivers no message keeps session and lock; one that does moves as the message says. -/
theorem privilegeChangesOnlyByTheFourMoves : Obligations.PrivilegeChangesOnlyByTheFourMoves := by
  intro s t h hne
  have moved {m : List Byte} {u : State} (hm : deliveredMessage s = some m) (hd : dispatchMessage m u = .next t)
      (hu : (u.session, u.lock) = (s.session, s.lock)) :
      ∃ m, deliveredMessage s = some m ∧ PrivilegeMove m (s.session, s.lock) (t.session, t.lock) := by
    have hmove := dispatchMessage_privilege hd
    rw [hu] at hmove
    exact ⟨m, hm, hmove.resolve_left hne⟩
  cases stepNext_of_step h with
  | idle | closure | leadInvalid | firstStarts | mismatch | grows | burst | flowMismatch => exact absurd rfl hne
  | timeout q => exact absurd (takeTimeout_privilege (consume q s)) hne
  | single _ _ _ _ _ _ hd _ hm => exact moved hm hd rfl
  | firstDelivers _ _ _ _ _ _ hd _ hm => exact moved hm hd rfl
  | completes _ _ _ _ _ _ _ _ hd _ hm => exact moved hm hd rfl

/-- The one move that unlocks (R242). -/
theorem privilegeMove_unlocks {m : List Byte} {a b : Session × Lock} (h : PrivilegeMove m a b) (hb : b.2 = .unlocked) :
    a = (.extended, .seedIssued) ∧ ∃ k0 k1 k2, m = [0x27, 0x02, k0, k1, k2, 0x85] := by
  cases h with
  | dsc01 | dsc02 | seed => cases hb
  | key k0 k1 k2 => exact ⟨rfl, k0, k1, k2, rfl⟩

/-- Settles O55: a step that unlocks has made one of the four moves, and only sendKey unlocks. -/
theorem unlockingTakesTheKey : Obligations.UnlockingTakesTheKey := by
  intro s t h hs ht
  have hne : (t.session, t.lock) ≠ (s.session, s.lock) := fun e => hs ((Prod.mk.inj e).2 ▸ ht)
  obtain ⟨m, hm, hmove⟩ := privilegeChangesOnlyByTheFourMoves s t h hne
  obtain ⟨hfrom, k0, k1, k2, rfl⟩ := privilegeMove_unlocks hmove ht
  obtain ⟨hsession, hlock⟩ := Prod.mk.inj hfrom
  exact ⟨hsession, hlock, k0, k1, k2, hm⟩

/-! ### The wait for flow control (R39) -/

/-- The engine waits for flow control only with a long read-memory response held, in state (2, 2). -/
theorem EngineNext.holds_read {s t : State} (h : EngineNext s t) (ht : t.phase = .txWaitFc) :
    s.session = .extended ∧ s.lock = .unlocked ∧ t.txBuf.length = t.txLen.toNat ∧
    ∃ data, t.txBuf = 0x63 :: data ∧ 7 ≤ data.length := by
  cases h with
  | silent | single => cases ht
  | first data h7 h hs hl =>
    refine ⟨hs, hl, ?_, data, rfl, h7⟩
    rw [awaitFlowControl_txBuf, awaitFlowControl_txLen, BitVec.toNat_ofNat, List.length_cons]
    omega

theorem takeTimeout_phase (s : State) : (takeTimeout s).phase = s.phase ∨ (takeTimeout s).phase = .rxIdle := by
  rcases takeTimeout_cases s with e | ⟨k, e⟩ <;> rw [e]
  · exact .inl rfl
  · exact .inr rfl

/-- Settles O58: of the cases of a step, only the engine enters the wait. -/
theorem onlyALongReadWaitsForFlowControl : Obligations.OnlyALongReadWaitsForFlowControl := by
  intro s t h hs ht
  cases stepNext_of_step h with
  | idle => exact absurd ht hs
  | timeout q =>
    rcases takeTimeout_phase (consume q s) with e | e
    · exact absurd (e.symm.trans ht) hs
    · cases e.symm.trans ht
  | grows => exact absurd ht hs
  | closure | leadInvalid | firstStarts | mismatch | burst | flowMismatch => cases ht
  | single _ _ _ _ _ _ _ he => exact he.holds_read ht
  | firstDelivers _ _ _ _ _ _ _ he => exact he.holds_read ht
  | completes _ _ _ _ _ _ _ _ _ he => exact he.holds_read ht

end Sys2Proof.Machine
end

section
/-! PROOF. Reset, the link frames, and payloads no frame can carry (10_state.md R37, 40_framer_write.md R104, R108). -/

namespace Sys2Proof.Machine

/-- Settles O1: the image loaded is read back address by address. -/
theorem resetIsIdleAndLocked : Obligations.ResetIsIdleAndLocked := by
  refine ⟨fun fw => ⟨rfl, rfl, rfl, rfl, image_ofImage fw, fwLen_ofImage fw, fun a => ?_⟩, rfl⟩
  rw [resetWith_mem, readByte_eq _ (wf_ofImage fw), image_ofImage]

/-- Settles O7: the eleven words are closed terms, which the decoder evaluates. -/
theorem sampleWordsDecode : Obligations.SampleWordsDecode := by
  unfold Obligations.SampleWordsDecode
  decide

/-- A payload longer than a first frame can declare has no first frame (R108, D15). -/
theorem sendFirst_tooLong (p : List Byte) (s : State) (h : 4095 < p.length) :
    sendFirst p s = .refused (.payloadLength p.length) := if_neg fun hc => Nat.not_le.2 h hc.2

/-- Settles O11: such a payload is no single frame either. -/
theorem writeOfMoreThan4095BytesIsRefused : Obligations.WriteOfMoreThan4095BytesIsRefused := by
  intro p s h
  have hlong : ¬ p.length ≤ Config.sfMax := Nat.not_le.2 ((by decide : Config.sfMax < 4095).trans h)
  exact ⟨(if_neg hlong).trans (sendFirst_tooLong p s h), sendFirst_tooLong p s h⟩

/-- Settles O12: each of the two emits its frame alone. -/
theorem linkFramesAreSent : Obligations.LinkFramesAreSent :=
  ⟨fun sn d s => by rw [← nibbles_two]; rfl, fun _ => rfl⟩

/-- Settles O24: the empty message and its instruction only go back to RX_IDLE. -/
theorem emptyMessageIsDiscarded : Obligations.EmptyMessageIsDiscarded := fun _ => ⟨rfl, rfl⟩

end Sys2Proof.Machine
end

section
/-! PROOF. Security access (44_service_security_access.md R190 to R193). -/

namespace Sys2Proof.Machine

theorem exec_saSeed (rest : List Byte) (s : State) : exec (.saSeed rest) s = execSaSeed rest s := rfl

theorem exec_saKey (key : List Byte) (s : State) : exec (.saKey key) s = execSaKey key s := rfl

theorem exec_saOther (sf : Byte) (rest : List Byte) (s : State) :
    exec (.saOther sf rest) s = execNeg Config.sidSa .subFunctionNotSupported s := rfl

/-! ### One lemma per test, in the order of the tests -/

theorem execSaSeed_wrongSession (rest : List Byte) (s : State) (hs : s.session ≠ .extended) :
    execSaSeed rest s = execNeg Config.sidSa .subFunctionNotSupportedInActiveSession s :=
  if_neg (by simpa using hs)

theorem execSaSeed_issues (rest : List Byte) (s : State) (hs : s.session = .extended) :
    execSaSeed rest s = execPosSaSeed { s with lock := .seedIssued } := if_pos (by simpa using hs)

/-- sendKey tests the session first (R190). -/
theorem execSaKey_wrongSession (key : List Byte) (s : State) (hs : s.session ≠ .extended) :
    execSaKey key s = execNeg Config.sidSa .subFunctionNotSupportedInActiveSession s := if_pos (by simpa using hs)

/-- Then whether a seed is issued (R192). -/
theorem execSaKey_noSeed (key : List Byte) (s : State) (hs : s.session = .extended) (hl : s.lock ≠ .seedIssued) :
    execSaKey key s = execNeg Config.sidSa .requestSequenceError s := by
  have session : ¬ (!inExtendedSession s) = true := by simpa using hs
  have seed : (!seedIsIssued s) = true := by simpa using hl
  rw [execSaKey, if_neg session, if_pos seed]

/-- Then the length (R192). -/
theorem execSaKey_wrongLength (key : List Byte) (s : State) (hs : s.session = .extended) (hl : s.lock = .seedIssued)
    (hlen : key.length ≠ 4) : execSaKey key s = execNeg Config.sidSa .incorrectMessageLengthOrInvalidFormat s := by
  have session : ¬ (!inExtendedSession s) = true := by simpa using hs
  have seed : ¬ (!seedIsIssued s) = true := by simpa using hl
  have length : (!keyLengthOk key) = true := by simpa using hlen
  rw [execSaKey, if_neg session, if_neg seed, if_pos length]

/-- Last the fourth key byte, which alone decides (R192). -/
theorem execSaKey_lastByte (k0 k1 k2 k3 : Byte) (s : State) (hs : s.session = .extended) (hl : s.lock = .seedIssued) :
    execSaKey [k0, k1, k2, k3] s =
      if k3 = 0x85 then execPosSaKey { s with lock := .unlocked } else execNeg Config.sidSa .invalidKey s := by
  have session : ¬ (!inExtendedSession s) = true := by simpa using hs
  have seed : ¬ (!seedIsIssued s) = true := by simpa using hl
  have key : (!keyOk [k0, k1, k2, k3]) = true ↔ ¬ k3 = 0x85 := by simp
  rw [execSaKey, if_neg session, if_neg seed, if_neg (by simp)]
  simp only [key, ite_not]

/-- Any sub-function but the two is refused before session and lock are looked at (R193, D10). -/
theorem dispatchMessage_saOther {sf : Byte} (h1 : sf ≠ 0x01) (h2 : sf ≠ 0x02) (rest : List Byte) (s : State) :
    dispatchMessage (Config.sidSa :: sf :: rest) s = execNeg Config.sidSa .subFunctionNotSupported s := by
  change handler27 sf rest s = _
  rw [handler27, if_neg h1, if_neg h2, execSaOther]

/-! ### The statements -/

/-- Settles O33: in session 2 the seed is issued, and the response goes out from the state with the new lock. -/
theorem seedRequestIssuesTheSeed : Obligations.SeedRequestIssuesTheSeed := by
  intro rest s hs
  rw [exec_saSeed, execSaSeed_issues rest s hs, execPosSaSeed_eq, toIdle_emit]

/-- Settles O34: the last key byte alone decides. -/
theorem rightKeyUnlocks : Obligations.RightKeyUnlocks := by
  intro k0 k1 k2 s hs hl
  rw [exec_saKey, execSaKey_lastByte k0 k1 k2 0x85 s hs hl, if_pos rfl, execPosSaKey_eq, toIdle_emit]

/-- Settles O35: each clause is the first test that fails. -/
theorem securityAccessRefusesInOrder : Obligations.SecurityAccessRefusesInOrder := by
  refine ⟨fun rest s hs => ?_, fun key s hs => ?_, fun key s hs hl => ?_, fun key s hs hl hlen => ?_,
    fun k0 k1 k2 k3 s hs hl hk => ?_⟩
  · exact (execSaSeed_wrongSession rest s hs).trans (execNeg_fields _ _ s)
  · exact (execSaKey_wrongSession key s hs).trans (execNeg_fields _ _ s)
  · exact (execSaKey_noSeed key s hs hl).trans (execNeg_fields _ _ s)
  · exact (execSaKey_wrongLength key s hs hl hlen).trans (execNeg_fields _ _ s)
  · rw [exec_saKey, execSaKey_lastByte k0 k1 k2 k3 s hs hl, if_neg hk]
    exact execNeg_fields _ _ s

/-- Settles O36: the message and the instruction are the same negative response. -/
theorem otherSecuritySubFunctionAnswers12 : Obligations.OtherSecuritySubFunctionAnswers12 := fun sf rest s h1 h2 =>
  ⟨(dispatchMessage_saOther h1 h2 rest s).trans (execNeg_fields _ _ s),
    (exec_saOther sf rest s).trans (execNeg_fields _ _ s)⟩

end Sys2Proof.Machine
end

section
/-! PROOF. Read memory by address past its refusals (45_service_read_memory.md R212 to R214). -/

namespace Sys2Proof.Machine

/-- With session, lock and length met, the range alone decides (R213). -/
theorem execRmba_inRange (a z : Nibble) (spans : List Byte) (s : State) (hs : s.session = .extended)
    (hl : s.lock = .unlocked) (hlen : spans.length = a.toNat + z.toNat) :
    execRmba a z spans s =
      if be (spans.drop a.toNat) ≤ 0xFFE ∧ 0x1000 ≤ be (spans.take a.toNat) ∧
        be (spans.take a.toNat) + be (spans.drop a.toNat) ≤ 0x1000 + s.mem.fwLen then
        execPosRmba (memRead s.mem (be (spans.take a.toNat)) (be (spans.drop a.toNat))) s
      else execNeg Config.sidRmba .requestOutOfRange s := by
  have session : ¬ (!inExtendedSession s) = true := by simpa using hs
  have lock : ¬ (!isUnlocked s) = true := by simpa using hl
  have length : ¬ (!spansLengthOk a z spans) = true := by simpa using hlen
  have range (addr size : Nat) : (!rangeOk s.mem.fwLen addr size) = true ↔
      ¬ (size ≤ 0xFFE ∧ 0x1000 ≤ addr ∧ addr + size ≤ 0x1000 + s.mem.fwLen) := by
    rw [← rangeOk_iff, Bool.not_eq_true, Bool.not_eq_true']
  rw [execRmba, if_neg session, if_neg lock, if_neg length, rmbaSize_eq a z spans hlen]
  simp only [range, ite_not, rmbaAddr]

/-- Settles O38: the one test left fails. -/
theorem readMemoryOutOfRangeAnswers31 : Obligations.ReadMemoryOutOfRangeAnswers31 := by
  intro a z spans s hs hl hlen hrange
  rw [exec_rmba, execRmba_inRange a z spans s hs hl hlen, if_neg hrange]
  exact execNeg_fields _ _ s

/-- In canonical form `MemRead` returns the bytes at the addresses from `addr` on (R50, R52). -/
theorem readByte_memRead (m : Memory) (addr n i : Nat) (hm : m.wf = true) (hb : 0x1000 ≤ addr) (hi : i < n) :
    m.readByte (addr + i) = (memRead m addr n)[i]? := by
  rw [readByte_eq m hm, if_pos (show 0x1000 ≤ addr + i by omega), memRead, List.getElem?_take_of_lt hi,
    List.getElem?_drop, Nat.sub_add_comm hb]

/-- Settles O39: the data bytes are those `MemRead` returns; the response is one single frame or a first frame. -/
theorem readMemoryReturnsTheFirmwareBytes : Obligations.ReadMemoryReturnsTheFirmwareBytes := by
  rintro a z spans s addr size hs hl hm hlen rfl rfl hmax hbase hend
  have hexec := execRmba_inRange a z spans s hs hl hlen
  rw [if_pos ⟨hmax, hbase, hend⟩] at hexec
  have hdata := length_memRead s.mem (be (spans.take a.toNat)) (be (spans.drop a.toNat)) hbase hend
  refine ⟨memRead s.mem (be (spans.take a.toNat)) (be (spans.drop a.toNat)), hdata,
    fun i hi => readByte_memRead s.mem _ _ i hm hbase hi, fun h => ?_, fun h => ?_⟩
  · rw [exec_rmba, hexec, execPosRmba_short _ s (by rwa [hdata]), hdata, toIdle_emit]
  · rw [exec_rmba, hexec, execPosRmba_long _ s (by rwa [hdata]) (by rw [hdata]; exact hmax), hdata]
    simp only [awaitFlowControl, List.length_cons, hdata]
    rfl

end Sys2Proof.Machine
end
